-- ==== Sys2Proof/Word.lean ====
section
/-! DEFINITION. The two bit-vector types of the block: a register word (R8, R20, 00_scope.md and
10_state.md) and an address of the register space (R50, 20_memory.md). -/

namespace Sys2Proof

/-- A word: 32 bits, bit 31 the most significant; unless a rule says "unsigned" it is read as a signed
two's-complement integer, `Word.toInt` (R8, R20). -/
abbrev Word := BitVec 32

/-- An address of the register space: 7 bits, naming one whole word (R50). -/
abbrev Address := BitVec 7

/-- A byte, which only a byte-addressed platform outside the block ever sees (R56). -/
abbrev Byte := BitVec 8

/-- The largest word, 2^31 - 1 (R8). -/
def maxWord : Int := 2147483647

/-- The least word, -2^31 (R8). -/
def minWord : Int := -2147483648

/-- An integer that a word can hold, read as signed (R8). -/
abbrev IsWord (z : Int) : Prop := minWord ≤ z ∧ z ≤ maxWord

end Sys2Proof
end

