-- ==== Sys2Proof/Syntax.lean ====
section
/-! DEFINITION. The ten commands of the block, one constructor per row of spec/opcode_table.json
(R71, 30_encoding.md). A command has no fields: every operand is a whole register (R70, R72). -/

namespace Sys2Proof

/-- A command (R71). -/
inductive Instr where
  /-- NOP, word 0x00000000 (R200). -/
  | nop
  /-- POWMOD, word 0x00000001 (R110). -/
  | powmod
  /-- INVMOD, word 0x00000002 (R120). -/
  | invmod
  /-- ISPRIME, word 0x00000003 (R132). -/
  | isprime
  /-- NEXTPRIME, word 0x00000004 (R135). -/
  | nextprime
  /-- PPTBUILD, word 0x00000005 (R137). -/
  | pptbuild
  /-- PPTEXTRACT, word 0x00000006 (R139). -/
  | pptextract
  /-- ACCADD, word 0x00000007 (R155). -/
  | accadd
  /-- ACCCLR, word 0x00000008 (R156). -/
  | accclr
  /-- DIGIT9, word 0x00000009 (R170). -/
  | digit9
  deriving DecidableEq, Repr

end Sys2Proof
end

