-- ==== Sys2Proof/WellFormed.lean ====
section
/-! DEFINITION. What makes a command, a command word and a transaction record well formed
(R70, R71, R74, 30_encoding.md). -/

namespace Sys2Proof

/-- A command has no register fields, no immediates and no mode fields (R70, R72), so there is nothing of
it that could be ill formed: every term of `Instr` is one of the ten commands of R71. -/
def Instr.wf : Instr → Bool
  | .nop | .powmod | .invmod | .isprime | .nextprime
  | .pptbuild | .pptextract | .accadd | .accclr | .digit9 => true

/-- A command word is well formed when its reserved field 31:8 is 0 and its opcode field 7:0 is one of the
ten of R71; every other word is illegal (R73). -/
def commandWordWf (w : Word) : Bool :=
  w.extractLsb 31 8 == 0 && decide ((w.extractLsb 7 0).toNat ≤ 9)

/-- A 40-bit transaction record (R74) is well formed when it is a write, or a read whose data field is 0
("the word written; 0 for a read"). -/
def recordWf (r : BitVec 40) : Bool :=
  r.getLsbD 39 || r.extractLsb 31 0 == 0

end Sys2Proof
end

