-- ==== Sys2Proof/Decode.lean ====
section
/-! DEFINITION. Decoding and encoding of command words, from the encoding tables of 30_encoding.md
(R70, R71, R73), and the little-endian bytes of a word (R56). -/

namespace Sys2Proof

/-- Why a command word is refused by the decoder; both are the cause `IllegalCommand` of R216. -/
inductive DecodeError where
  /-- the reserved field 31:8 is not 0 (R70, R73) -/
  | reservedFieldNotZero
  /-- the reserved field is 0 and the opcode is in 0x0A to 0xFF (R73) -/
  | opcodeUnassigned
  /-- fewer than the four bytes of a word were presented (a byte-addressed platform only, R56) -/
  | wordIncomplete
  deriving DecidableEq, Repr

/-- The opcode field `w[7:0]` of R70. -/
def opcodeField (w : Word) : BitVec 8 := w.extractLsb 7 0

/-- The reserved field `w[31:8]` of R70. -/
def reservedField (w : Word) : BitVec 24 := w.extractLsb 31 8

/-- The command an opcode selects (the opcode map of R71). -/
def opcodeMap (op : BitVec 8) : Option Instr :=
  match op.toNat with
  | 0x00 => some .nop
  | 0x01 => some .powmod
  | 0x02 => some .invmod
  | 0x03 => some .isprime
  | 0x04 => some .nextprime
  | 0x05 => some .pptbuild
  | 0x06 => some .pptextract
  | 0x07 => some .accadd
  | 0x08 => some .accclr
  | 0x09 => some .digit9
  | _ => none

/-- Decoding of a command word: all 32 bits take part (R70, R71, R73). -/
def decode (w : Word) : Except DecodeError Instr :=
  if reservedField w = 0 then
    match opcodeMap (opcodeField w) with
    | some i => .ok i
    | none => .error .opcodeUnassigned
  else .error .reservedFieldNotZero

/-- The opcode of a command (R71). -/
def opcodeOf : Instr → BitVec 8
  | .nop => 0x00
  | .powmod => 0x01
  | .invmod => 0x02
  | .isprime => 0x03
  | .nextprime => 0x04
  | .pptbuild => 0x05
  | .pptextract => 0x06
  | .accadd => 0x07
  | .accclr => 0x08
  | .digit9 => 0x09

/-- The command word of a command: opcode in 7:0, zeros in 31:8 (R70, R71). -/
def encode (i : Instr) : Word := (0 : BitVec 24) ++ opcodeOf i

/-- The four bytes of a word on a byte-addressed platform, the lowest address first: little-endian
(R56, D21). -/
def wordBytes (w : Word) : List Byte :=
  [w.extractLsb 7 0, w.extractLsb 15 8, w.extractLsb 23 16, w.extractLsb 31 24]

/-- The word that four little-endian bytes stand for (R56, D21), and the bytes that follow them. -/
def wordOfBytes : List Byte → Option (Word × List Byte)
  | b0 :: b1 :: b2 :: b3 :: rest => some (b3 ++ b2 ++ b1 ++ b0, rest)
  | _ => none

/-- Decoding from bytes, total on any bytes: the first word's command and the bytes after it. -/
def decodeBytes (bs : List Byte) : Except DecodeError (Instr × List Byte) :=
  match wordOfBytes bs with
  | none => .error .wordIncomplete
  | some (w, rest) =>
    match decode w with
    | .ok i => .ok (i, rest)
    | .error e => .error e

/-- The command the decoder reads from the table's bits `w`: a command is one 32-bit word (R70), its bits
above `nbits` are 0, and bits of `w` at or above `nbits` are no bits of the instruction. -/
def decodeTableWord (nbits w : Nat) : Option Instr :=
  if w % 2 ^ nbits < 2 ^ 32 then
    match decodeBytes (wordBytes (BitVec.ofNat 32 (w % 2 ^ nbits))) with
    | .ok (i, _) => some i
    | .error _ => none
  else none

end Sys2Proof
end

