-- ==== Sys2Proof/Config.lean ====
section
/-! DEFINITION. The named constants of R7 (00_scope.md) and the values the spec leaves open, each an
opaque constant of which nothing can be proved. -/

namespace Sys2Proof

/-- XLEN, the width of a word, which `Word` has (R7, R8). -/
@[simp] def Config.xlen : Nat := 32

/-- PRIME_ROM_LEN, the number of table primes, which `primeRom` lists (R7, R29). -/
@[simp] def Config.primeRomLen : Nat := 47

/-- ACCURACY_CEILING, the digit index up to which PISPEC vouches for `R0`, stated as approximate (R7). No
rule computes with it: DIGIT9 refuses above INDEX_MAX (R218, U7). -/
@[simp] def Config.accuracyCeiling : Int := 17400

/-- MOD_SAFE, the largest modulus of the safe zone (R7). -/
@[simp] def Config.modSafe : Int := 46340

/-- ORACLE_LIMIT = 211², the range PISPEC vouches for (R7). -/
@[simp] def Config.oracleLimit : Int := 44521

/-- ORACLE_EXACT_LIMIT = 223² (R7, R133). -/
@[simp] def Config.oracleExactLimit : Int := 49729

/-- INV_ITERS, the fixed count of inversion iterations (R7, R121). -/
@[simp] def Config.invIters : Nat := 11

/-- PP_CEIL, the ceiling of the prime-power table (R7, R136). -/
@[simp] def Config.ppCeil : Int := 46340

/-- PPT_CAP, the capacity of the prime-power table (R7, R136). -/
@[simp] def Config.pptCap : Nat := 16

/-- ACC_THRESH, above which a denominator is rescaled (R7, R153). -/
@[simp] def Config.accThresh : Int := 60000

/-- ACC_RESCALE, the factor of the rescaling (R7, R154). -/
@[simp] def Config.accRescaleFactor : Int := 256

/-- ACC_COMP = LIMB / ACC_RESCALE, the scale of the compensating term (R7, R154). -/
@[simp] def Config.accComp : Int := 3906250

/-- SPLIT_A, the factor applied first in the long division (R7, R151). -/
@[simp] def Config.splitA : Int := 32000

/-- SPLIT_B, the factor applied second (R7, R151). -/
@[simp] def Config.splitB : Int := 31250

/-- LIMB = 10⁹, the base of the accumulator (R7, R27). -/
@[simp] def Config.limb : Int := 1000000000

/-- N_OFFSET (R7, R171). -/
@[simp] def Config.nOffset : Int := 19

/-- N_NUM (R7, R171). -/
@[simp] def Config.nNum : Int := 100

/-- N_DEN (R7, R171). -/
@[simp] def Config.nDen : Int := 113

/-- INDEX_MAX, the largest digit index DIGIT9 accepts (R7, R171, R218). -/
@[simp] def Config.indexMax : Int := 17436

/-- FREE VALUE. `divT(a, 0)`, which R92 (40_arithmetic.md) leaves undefined and says is never formed;
log entry 4. -/
opaque Config.quotientByZero : Int → Word

/-- FREE VALUE. `remT(a, 0)`, which R92 leaves undefined and says is never formed; log entry 4. -/
opaque Config.remainderByZero : Int → Word

/-- FREE VALUE. A table entry at an index outside 0..15: there is no such register (R28), and R176, R181
say that none is read; log entry 5. -/
opaque Config.entryBeyondTable : Int → Word

/-- FREE VALUE. `1 << e` with e outside 0..30, which R95 says is never formed; log entry 5. -/
opaque Config.shiftBeyondWord : Int → Word

/-- FREE VALUE. BASE, the byte address at which a platform places the register space: left OPEN by D21
(R51, R56); log entry 10. -/
opaque Config.base : Nat

end Sys2Proof
end

