-- ==== Sys2Proof/Machine/Arith.lean ====
section
/-! DEFINITION. The five arithmetic primitives of 40_arithmetic.md (R90 to R94) and the two shifts of R95.
Integers are mathematical; a value is a word exactly when it lies in [-2^31, 2^31) (R8). -/

namespace Sys2Proof.Machine

/-- The word a value that is already a word is stored as in a register (R9 `R0 <- v`). -/
def toWord (z : Int) : Word := BitVec.ofInt 32 z

/-- `wrap32`: the unique integer in [-2^31, 2^31) congruent to `z` modulo 2^32 (R90). -/
def wrap32 (z : Int) : Int := z.bmod (2 ^ 32)

/-- `add32` (R90). -/
def add32 (a b : Int) : Int := wrap32 (a + b)

/-- `sub32` (R90). -/
def sub32 (a b : Int) : Int := wrap32 (a - b)

/-- `mul32` (R90). -/
def mul32 (a b : Int) : Int := wrap32 (a * b)

/-- `divT`: the quotient truncated toward zero (R91); `divT(a, 0)` is left undefined by R92 and is a free
value (log entry 4). -/
def divT (a b : Int) : Int :=
  if b = 0 then (Config.quotientByZero a).toInt else wrap32 (a.tdiv b)

/-- `remT`: the remainder of the truncated quotient, which has the sign of `a` (R91); `remT(a, 0)` is left
undefined by R92 and is a free value (log entry 4). -/
def remT (a b : Int) : Int :=
  if b = 0 then (Config.remainderByZero a).toInt else a.tmod b

/-- `smod`: the least non-negative residue, as R93 computes it from `remT`. -/
def smod (z m : Int) : Int :=
  let r := remT z m
  if 0 ≤ r then r else r + m

/-- `mulmod`: multiply exactly, keep the low 32 bits as a signed word, reduce to [0, m) (R94). -/
def mulmod (a b m : Int) : Int := smod (mul32 a b) m

/-- `1 << e` for 0 ≤ e ≤ 30, the only shift to the left (R95); any other count is never formed and is a
free value (log entry 5). -/
def shiftOne (e : Int) : Int :=
  if 0 ≤ e ∧ e ≤ 30 then 2 ^ e.toNat else (Config.shiftBeyondWord e).toInt

/-- `b & 1` on a non-negative word (R95). -/
def lowBit (b : Int) : Int := b % 2

/-- `b >> 1` on a non-negative word: floor division by 2 (R95). -/
def halve (b : Int) : Int := b / 2

end Sys2Proof.Machine
end

