-- ==== Sys2Proof/Machine/State.lean ====
section
/-! DEFINITION. The architectural state of the block (10_state.md), its reset (R32, R240), the host's
transactions (R50) and the ways a step can stop. -/

namespace Sys2Proof.Machine

/-- The outcome of a command as `STATUS.CAUSE` records it (R25, R215). -/
inductive Cause where
  /-- code 0: the command completed -/
  | none
  /-- code 1: the word written to `CMD` is not one of the ten commands (R216) -/
  | illegalCommand
  /-- code 2: an operand the command refuses (R217) -/
  | invalidInput
  /-- code 3: a digit index above INDEX_MAX (R218) -/
  | outOfRange
  deriving DecidableEq, Repr

/-- The operand registers (R21). -/
inductive OperandReg where
  | a0
  | a1
  | a2
  deriving DecidableEq, Repr

/-- The registers of the register space, by the names of its map (R51). -/
inductive RegName where
  | cmd
  | status
  | a0
  | a1
  | a2
  | r0
  | r1
  | accHi
  | accLo
  | pptLen
  /-- `PPT[j]` -/
  | ppt (j : Fin 16)
  /-- `PRIME_ROM[i]` -/
  | primeRom (i : Fin 47)
  deriving DecidableEq, Repr

/-- What the outside world can do to the block: the two transactions of R50 and the reset event of R240.
"There is no other way into or out of the block" (R50). -/
inductive HostEvent where
  /-- `MemRead(addr, 1)` (R52) -/
  | read (addr : Address)
  /-- `MemWrite(addr, 1, v)` (R53, R54) -/
  | write (addr : Address) (data : Word)
  /-- the reset event (R240) -/
  | reset
  deriving DecidableEq, Repr

/-- The state of the block. The registers are those of 10_state.md section 1; `PRIME_ROM` is a constant
(R29) and no field; working registers and `seq` are no fields because R30 says so (log entry 2).
The last two fields are the model's own (log entry 1). -/
structure State where
  /-- `A0` (R21) -/
  a0 : Word
  /-- `A1` (R21) -/
  a1 : Word
  /-- `A2` (R21) -/
  a2 : Word
  /-- `R0` (R22) -/
  r0 : Word
  /-- `R1` (R22) -/
  r1 : Word
  /-- `CMD` (R26) -/
  cmd : Word
  /-- `STATUS` (R25) -/
  status : Word
  /-- `ACC_HI` (R27) -/
  accHi : Word
  /-- `ACC_LO` (R27) -/
  accLo : Word
  /-- `PPT_LEN` (R28) -/
  pptLen : Word
  /-- `PPT[0..15]` (R28) -/
  ppt : Vector Word 16
  /-- The model's own: what the host has presented and the block has not yet taken, oldest first; R59
  gives the one total order. -/
  pending : List HostEvent
  /-- The model's own: the word the latest transaction returned to the host; none unless it was a read
  (R52). -/
  returned : Option Word
  deriving DecidableEq, Repr

/-- Ways the machine could stop with a fault. There are none: R251 says that every command terminates for
every operand it accepts, R220 that a refused operand or word only changes STATUS. A cause (R215) is
recorded in STATUS and the machine goes on: it is a next state, never a fault. The empty type is safe:
nothing raises it. -/
inductive Fault where
  deriving DecidableEq, Repr

/-- Ways the model could refuse an instruction. -/
inductive Refusal where
  /-- Raised by an arm of `exec` for a command the model gives no meaning; safe, since the machine then
  stops. No arm raises it: every command has its meaning. -/
  | notModelled (mnemonic : String)
  deriving DecidableEq, Repr

/-- The state after reset: every register 0, nothing executed (R32, R240); the host has presented nothing
(log entry 1). -/
def State.reset : State where
  a0 := 0
  a1 := 0
  a2 := 0
  r0 := 0
  r1 := 0
  cmd := 0
  status := 0
  accHi := 0
  accLo := 0
  pptLen := 0
  ppt := Vector.replicate 16 0
  pending := []
  returned := Option.none

end Sys2Proof.Machine
end

