-- ==== Sys2Proof/Machine/Flags.lean ====
section
/-! DEFINITION. The fields of STATUS and the two ways a command rewrites it (R25, R215, R220). There are
no arithmetic flags (R25). -/

namespace Sys2Proof.Machine

/-- The code of a cause in `STATUS.CAUSE` (R215). -/
def causeCode : Cause → BitVec 4
  | .none => 0
  | .illegalCommand => 1
  | .invalidInput => 2
  | .outOfRange => 3

/-- A STATUS word from its fields: FAULT 31, reserved 30:6 zero, SKIP2 5, DONE 4, CAUSE 3:0 (R25). -/
def packStatus (cause : Cause) (done skip2 fault : Bool) : Word :=
  BitVec.ofBool fault ++ (0 : BitVec 25) ++ BitVec.ofBool skip2 ++ BitVec.ofBool done ++ causeCode cause

/-- `STATUS.CAUSE`, bits 3:0 (R25). -/
def statusCause (w : Word) : BitVec 4 := w.extractLsb 3 0

/-- `STATUS.DONE`, bit 4 (R25). -/
def statusDone (w : Word) : Bool := w.getLsbD 4

/-- `STATUS.SKIP2`, bit 5 (R25). -/
def statusSkip2 (w : Word) : Bool := w.getLsbD 5

/-- `STATUS[30:6]`, reserved, reads as 0 (R25). -/
def statusReserved (w : Word) : BitVec 25 := w.extractLsb 30 6

/-- `STATUS.FAULT`, bit 31 (R25). -/
def statusFault (w : Word) : Bool := w.getLsbD 31

/-- STATUS at the end of a command that completes: `{CAUSE = None, DONE = 1, SKIP2, FAULT kept}`
(R110 and every command rule). -/
def statusCompleted (old : Word) (skip2 : Bool) : Word :=
  packStatus .none true skip2 (statusFault old)

/-- STATUS when a cause is raised: `{CAUSE = code, DONE = 0, SKIP2 = 0, FAULT = 1}` (R220). -/
def statusRaised (cause : Cause) : Word :=
  packStatus cause false false true

end Sys2Proof.Machine
end

