-- ==== Sys2Proof/Machine/Ops.lean ====
section
/-! DEFINITION. The shared operations over the state: the prime table and the register space
(R29, R51 to R55), raising a cause (R220), completing a command, the accumulator and the prime-power
table (R27, R28). -/

namespace Sys2Proof.Machine

/-- `PRIME_ROM[0..46]`, index 0 first: the first 47 primes (R29). -/
def primeRom : List Int :=
  [2, 3, 5, 7, 11, 13, 17, 19, 23, 29, 31, 37, 41, 43, 47, 53] ++
  [59, 61, 67, 71, 73, 79, 83, 89, 97, 101, 103, 107, 109, 113, 127, 131] ++
  [137, 139, 149, 151, 157, 163, 167, 173, 179, 181, 191, 193, 197, 199, 211]

/-! ### The register space -/

/-- The register at an address, or none where the map of R51 has nothing. -/
def regAt (addr : Address) : Option RegName :=
  let n := addr.toNat
  if n = 0x00 then some .cmd
  else if n = 0x01 then some .status
  else if n = 0x02 then some .a0
  else if n = 0x03 then some .a1
  else if n = 0x04 then some .a2
  else if n = 0x05 then some .r0
  else if n = 0x06 then some .r1
  else if n = 0x07 then some .accHi
  else if n = 0x08 then some .accLo
  else if n = 0x09 then some .pptLen
  else if h : 0x10 ≤ n ∧ n < 0x20 then some (.ppt ⟨n - 0x10, by omega⟩)
  else if h : 0x40 ≤ n ∧ n < 0x6F then some (.primeRom ⟨n - 0x40, by omega⟩)
  else none

/-- The address of a register (R51). -/
def addressOf : RegName → Address
  | .cmd => 0x00
  | .status => 0x01
  | .a0 => 0x02
  | .a1 => 0x03
  | .a2 => 0x04
  | .r0 => 0x05
  | .r1 => 0x06
  | .accHi => 0x07
  | .accLo => 0x08
  | .pptLen => 0x09
  | .ppt j => BitVec.ofNat 7 (0x10 + j.val)
  | .primeRom i => BitVec.ofNat 7 (0x40 + i.val)

/-- The current value of a register (R52). -/
def readReg (s : State) : RegName → Word
  | .cmd => s.cmd
  | .status => s.status
  | .a0 => s.a0
  | .a1 => s.a1
  | .a2 => s.a2
  | .r0 => s.r0
  | .r1 => s.r1
  | .accHi => s.accHi
  | .accLo => s.accLo
  | .pptLen => s.pptLen
  | .ppt j => s.ppt[j]
  | .primeRom i => toWord (primeRom.getD i.val 0)

/-- What a host read of an address returns: the register's value (R52), and 0 at an unmapped address
(R55). -/
def readAddr (s : State) (addr : Address) : Word :=
  match regAt addr with
  | some r => readReg s r
  | none => 0

/-- What a host write stores: the whole word in `CMD`, `A0`, `A1` or `A2`; nothing in a read-only register
(R53) and nothing at an unmapped address (R55). Executing the command is not here: R54 step 2. -/
def storeAddr (s : State) (addr : Address) (v : Word) : State :=
  match regAt addr with
  | some .cmd => { s with cmd := v }
  | some .a0 => { s with a0 := v }
  | some .a1 => { s with a1 := v }
  | some .a2 => { s with a2 := v }
  | some _ => s
  | none => s

/-! ### Raising a cause, completing a command -/

/-- Raising a cause, the whole of it: STATUS records it and nothing else changes (R220). There is no
return from it: R222, "no return instruction and nothing to restore". -/
def raiseCause (c : Cause) (s : State) : State :=
  { s with status := statusRaised c }

/-- Completing a command whose results are in `s`: STATUS is rewritten last (R25, R110). -/
def complete (skip2 : Bool) (s : State) : State :=
  { s with status := statusCompleted s.status skip2 }

/-! ### Results, accumulator, table -/

/-- `R0 <- v` (R9, R22). -/
def setR0 (v : Int) (s : State) : State := { s with r0 := toWord v }

/-- `R1 <- v` (R9, R22). -/
def setR1 (v : Int) (s : State) : State := { s with r1 := toWord v }

/-- `ACC_HI <- h ; ACC_LO <- l` (R27). -/
def setAcc (h l : Int) (s : State) : State := { s with accHi := toWord h, accLo := toWord l }

/-- The sixteen entries of the prime-power table (R28). -/
abbrev Table := Vector Word 16

/-- `PPT[j]` read as a signed word; outside 0..15 there is no register and the value is free
(log entry 5). -/
def entryAt (t : Table) (j : Int) : Int :=
  if h : 0 ≤ j ∧ j < 16 then (t[j.toNat]'(by omega)).toInt else (Config.entryBeyondTable j).toInt

/-- `PPT[j] <- w` for an index of the table (R28, R136). -/
def setEntry (t : Table) (j : Nat) (w : Int) : Table := t.setIfInBounds j (toWord w)

/-- `PPT <- t ; PPT_LEN <- len` (R28, R136). -/
def setTable (t : Table) (len : Nat) (s : State) : State :=
  { s with ppt := t, pptLen := toWord len }

end Sys2Proof.Machine
end

