-- ==== Sys2Proof/Machine/Bus.lean ====
section
/-! DEFINITION. The host's transactions and the reset event as operations on the state
(R52, R53, R55, R240). -/

namespace Sys2Proof.Machine

/-- The address of `CMD` (R51), the one address whose write has a side effect (R58). -/
def cmdAddr : Address := 0x00

/-- `s` with its oldest pending event taken, and nothing returned yet. -/
def takeEvent (rest : List HostEvent) (s : State) : State :=
  { s with pending := rest, returned := none }

/-- A host read: the word at the address is returned and nothing else changes (R52, R55). -/
def hostRead (addr : Address) (s : State) : State :=
  { s with returned := some (readAddr s addr) }

/-- The reset event: every register at its reset value (R240, R32). What the host has still to present is
the host's, not the block's, and stays (log entry 1). -/
def hostReset (s : State) : State :=
  { State.reset with pending := s.pending }

/-- The command word taken from the bits `w` of a table row, the bits at and above `nbits` being 0. -/
def tableCommandWord (nbits w : Nat) : Word := BitVec.ofNat 32 (w % 2 ^ nbits)

/-- `s` with the host's next transaction a write of the word to `CMD`. -/
def presentCommand (w : Word) (s : State) : State :=
  { s with pending := .write cmdAddr w :: s.pending }

end Sys2Proof.Machine
end

