-- ==== Sys2Proof/Machine/Operands.lean ====
section
/-! DEFINITION. Operand forms: every operand is a whole operand register read as a signed word, with no
extension, scaling or shifting (R21, R72). -/

namespace Sys2Proof.Machine

/-- The value of an operand register, read as a signed word at the moment the command runs (R21, R72). -/
def operand (s : State) : OperandReg → Int
  | .a0 => s.a0.toInt
  | .a1 => s.a1.toInt
  | .a2 => s.a2.toInt

/-- The operand registers a command reads (the table of R21); "an unused operand register is not read". -/
def operandsRead : Instr → List OperandReg
  | .nop => []
  | .powmod => [.a0, .a1, .a2]
  | .invmod => [.a0, .a1]
  | .isprime => [.a0]
  | .nextprime => [.a0]
  | .pptbuild => [.a0]
  | .pptextract => [.a0]
  | .accadd => [.a0, .a1]
  | .accclr => []
  | .digit9 => [.a0]

/-- `s` with another word in an operand register. -/
def withOperand (s : State) (v : Word) : OperandReg → State
  | .a0 => { s with a0 := v }
  | .a1 => { s with a1 := v }
  | .a2 => { s with a2 := v }

end Sys2Proof.Machine
end

