-- ==== Sys2Proof/Machine/Accumulator.lean ====
section
/-! DEFINITION. The fixed-point rational accumulator (FPRA): ACCADD, ACCCLR (44_accumulator.md,
R150 to R158). -/

namespace Sys2Proof.Machine

/-- `muldiv1e9(n, d)`: long division of `n · 10⁹` by `d`, the factor split as 32000 · 31250; quotient and
remainder (R151). -/
def muldiv1e9 (n d : Int) : Int × Int :=
  let t1 := wrap32 (n * Config.splitA)
  let q1 := divT t1 d
  let r1 := remT t1 d
  let t2 := wrap32 (r1 * Config.splitB)
  let q2 := divT t2 d
  let r2 := remT t2 d
  (wrap32 (wrap32 (q1 * Config.splitB) + q2), r2)

/-- `acc_norm(hi, lo)`: one carry when `lo ≥ 10⁹`, then both limbs reduced (R152). -/
def accNorm (hi lo : Int) : Int × Int :=
  let hi' := if Config.limb ≤ lo then wrap32 (hi + 1) else hi
  (smod hi' Config.limb, smod lo Config.limb)

/-- `acc_rescale(n, d, hi, lo)`: the path for d > 60000, which divides numerator and denominator by 256 and
adds the compensating term for the low bits of `n`; the new `(n, d, hi, lo)` (R154). -/
def accRescale (n d hi lo : Int) : Int × Int × Int × Int :=
  let nl := remT n Config.accRescaleFactor
  let nh := divT n Config.accRescaleFactor
  let d2 := divT d Config.accRescaleFactor
  let c := wrap32 (nl * Config.accComp)
  let qc := divT c d2
  let rc := remT c d2
  let q2 := (muldiv1e9 rc d2).1
  let acc := accNorm (wrap32 (hi + qc)) (wrap32 (lo + q2))
  (nh, d2, acc.1, acc.2)

/-- The direct path of `acc_add`: digits 1-9 and 10-18 of `n/d` added to the limbs; the last remainder is
discarded (R153). -/
def accAddDirect (n d hi lo : Int) : Int × Int :=
  let first := muldiv1e9 n d
  let second := muldiv1e9 first.2 d
  accNorm (wrap32 (hi + first.1)) (wrap32 (lo + second.1))

/-- `acc_add(n, d, hi, lo)`: the new limbs (R153). -/
def accAdd (n d hi lo : Int) : Int × Int :=
  if Config.accThresh < d then
    match accRescale n d hi lo with
    | (n', d', hi', lo') => accAddDirect n' d' hi' lo'
  else accAddDirect n d hi lo

/-- ACCADD (R155): the new limbs go to the accumulator and are echoed in `R0`, `R1`. -/
def execAccadd (s : State) : Host.Outcome State Fault Refusal :=
  let n := operand s .a0
  let d := operand s .a1
  if d ≤ 0 then .next (raiseCause .invalidInput s)
  else
    match accAdd n d s.accHi.toInt s.accLo.toInt with
    | (h, l) => .next (complete false (setR1 l (setR0 h (setAcc h l s))))

/-- ACCCLR (R156): the accumulator and both result registers become 0 (R22; log entry 7). -/
def execAccclr (s : State) : Host.Outcome State Fault Refusal :=
  .next (complete false (setR1 0 (setR0 0 (setAcc 0 0 s))))

end Sys2Proof.Machine
end

