-- ==== Sys2Proof/Machine/Modexp.lean ====
section
/-! DEFINITION. The modular exponentiation engine (MEE): POWMOD (41_modexp.md, R110 to R114). -/

namespace Sys2Proof.Machine

/-- The loop `while b > 0` of `pow_mod`, at most as often as the first argument says: test the bit,
multiply, shift, square if another bit follows (R111). -/
def powModLoop (m : Int) : Nat → Int → Int → Int → Int
  | 0, r, _, _ => r
  | fuel + 1, r, aa, b =>
    if b > 0 then
      let r' := if lowBit b = 1 then mulmod r aa m else r
      let b' := halve b
      let aa' := if b' > 0 then mulmod aa aa m else aa
      powModLoop m fuel r' aa' b'
    else r

/-- `pow_mod(a, b, m)` (R111): the base enters unreduced, the running result starts at `smod(1, m)`. The
loop runs at most 31 times, since b < 2^31 (R114; log entry 12). -/
def powMod (a b m : Int) : Int :=
  powModLoop m 31 (if m = 1 then 0 else 1) a b

/-- POWMOD (R110). -/
def execPowmod (s : State) : Host.Outcome State Fault Refusal :=
  let a := operand s .a0
  let b := operand s .a1
  let m := operand s .a2
  if b < 0 ∨ m ≤ 0 then .next (raiseCause .invalidInput s)
  else .next (complete false (setR0 (powMod a b m) s))

end Sys2Proof.Machine
end

