-- ==== Sys2Proof/Machine/Modinv.lean ====
section
/-! DEFINITION. The modular inversion unit (MIU): INVMOD (42_modinv.md, R120 to R125). -/

namespace Sys2Proof.Machine

/-- Half-step A: reduce `b` by `a`, nothing when `a` is 0; the new `(b, y)` (R121). -/
def halfStepA (a b x y : Int) : Int × Int :=
  if a ≠ 0 then
    let q := divT b a
    (wrap32 (b - q * a), wrap32 (y - q * x))
  else (b, y)

/-- Half-step B: reduce `a` by `b`, nothing when `b` is 0; the new `(a, x)` (R121). -/
def halfStepB (a b x y : Int) : Int × Int :=
  if b ≠ 0 then
    let q := divT a b
    (wrap32 (a - q * b), wrap32 (x - q * y))
  else (a, x)

/-- The given number of iterations, each half-step A then half-step B, and the choice of the result
(R121). -/
def invModLoop (m : Int) : Nat → Int → Int → Int → Int → Int
  | 0, _, b, x, y => if b = 0 then x else if y < 0 then wrap32 (y + m) else y
  | n + 1, a, b, x, y =>
    match halfStepA a b x y with
    | (b', y') =>
      match halfStepB a b' x y' with
      | (a', x') => invModLoop m n a' b' x' y'

/-- `inv_mod(a, m)` (R121): a negative `a` gets one addition of `m`; then INV_ITERS iterations from
`b = m`, `x = 1`, `y = 0`, whatever the operands (R125). -/
def invMod (a m : Int) : Int :=
  invModLoop m Config.invIters (if a < 0 then wrap32 (a + m) else a) m 1 0

/-- INVMOD (R120). A violated coprimality precondition is not detected (R124). -/
def execInvmod (s : State) : Host.Outcome State Fault Refusal :=
  let a := operand s .a0
  let m := operand s .a1
  if m ≤ 0 then .next (raiseCause .invalidInput s)
  else .next (complete false (setR0 (invMod a m) s))

end Sys2Proof.Machine
end

