-- ==== Sys2Proof/Machine/Oracle.lean ====
section
/-! DEFINITION. The small-prime oracle and factorizer (SPOF): ISPRIME, NEXTPRIME, PPTBUILD, PPTEXTRACT
(43_prime_oracle_factorizer.md, R131 to R140). -/

namespace Sys2Proof.Machine

/-- Trial division of `n` by the primes of a list, in order (R131). -/
def trialDivide (n : Int) : List Int → Bool
  | [] => true
  | q :: qs => if n = q then true else if remT n q = 0 then false else trialDivide n qs

/-- `is_prime(n)` for any word `n`: trial division by `PRIME_ROM` in index order (R131). -/
def isPrime (n : Int) : Bool := trialDivide n primeRom

/-- "true" is the word 1 and "false" the word 0 (R131). -/
def truthWord (b : Bool) : Int := if b then 1 else 0

/-- ISPRIME (R132): every word is accepted. -/
def execIsprime (s : State) : Host.Outcome State Fault Refusal :=
  .next (complete false (setR0 (truthWord (isPrime (operand s .a0))) s))

/-- The search `while is_prime(c) = 0: c := wrap32(c + 1)`, at most as far as the first argument
says (R134). -/
def nextPrimeFrom : Nat → Int → Int
  | 0, c => c
  | fuel + 1, c => if isPrime c then c else nextPrimeFrom fuel (wrap32 (c + 1))

/-- The bound of the search: 2^32 increments visit every word, and 1 is accepted, so the search ends
before it (R134; log entry 12). -/
def searchBound : Nat := 2 ^ 32

/-- `next_prime(n)` for any word `n` (R134). -/
def nextPrime (n : Int) : Int := nextPrimeFrom searchBound (wrap32 (n + 1))

/-- NEXTPRIME (R135): every word is accepted. -/
def execNextprime (s : State) : Host.Outcome State Fault Refusal :=
  .next (complete false (setR0 (nextPrime (operand s .a0)) s))

/-- The loop of `ppt_build`: while `w ≤ PP_CEIL` and the length is below the capacity, which the first
argument counts down, write the power and go on; the entries left and the length (R136). -/
def pptBuildLoop (p : Int) : Nat → Nat → Int → Table → Table × Nat
  | 0, len, _, t => (t, len)
  | room + 1, len, w, t =>
    if w ≤ Config.ppCeil then pptBuildLoop p room (len + 1) (w * p) (setEntry t len w)
    else (t, len)

/-- `ppt_build(p)` on a table: the new table and its length; entries at or above the length are untouched
(R136, R28). -/
def pptBuild (p : Int) (t : Table) : Table × Nat := pptBuildLoop p Config.pptCap 0 1 t

/-- PPTBUILD (R137). -/
def execPptbuild (s : State) : Host.Outcome State Fault Refusal :=
  let p := operand s .a0
  if p < 2 then .next (raiseCause .invalidInput s)
  else
    match pptBuild p s.ppt with
    | (t, len) => .next (complete false (setR0 len (setTable t len s)))

/-- The scan `for j := … downto 1` of `ppt_extract`, from the index given (R138). -/
def extractFrom (t : Table) (n : Int) : Nat → Int × Nat
  | 0 => (n, 0)
  | j + 1 =>
    let q := entryAt t (j + 1 : Nat)
    if remT n q = 0 then (divT n q, j + 1) else extractFrom t n j

/-- `ppt_extract(n)` for any word `n`, reading the table as it currently is: the reduced `n` and the index
removed (R138). -/
def pptExtract (t : Table) (len : Int) (n : Int) : Int × Nat := extractFrom t n (len - 1).toNat

/-- PPTEXTRACT (R139): every word is accepted, with any table. -/
def execPptextract (s : State) : Host.Outcome State Fault Refusal :=
  match pptExtract s.ppt s.pptLen.toInt (operand s .a0) with
  | (n, j) => .next (complete false (setR1 j (setR0 n s)))

end Sys2Proof.Machine
end

