-- ==== Sys2Proof/Machine/Digit.lean ====
section
/-! DEFINITION. The digit extraction controller (DEC): DIGIT9 (45_digit_controller.md, R170 to R178,
R182) and NOP (46_system_host.md, R200). -/

namespace Sys2Proof.Machine

/-- NOP (R200): STATUS only. -/
def execNop (s : State) : Host.Outcome State Fault Refusal :=
  .next (complete false s)

/-- `term_count(index)`: the number N of series terms (R171). -/
def termCount (index : Int) : Int :=
  divT ((index + Config.nOffset) * Config.nNum) Config.nDen

/-- What `setup(P, N, index)` gives the term loop: exponent, modulus, shift factor, starting exponent
(R173 to R175). -/
structure PrimeSetup where
  /-- `E` -/
  e : Int
  /-- `M = P^E` -/
  m : Int
  /-- `SHIFT` -/
  shift : Int
  /-- `V` -/
  v : Int
  deriving DecidableEq, Repr

/-- The largest `j` of the table with `PPT[j] ≤ bound`, scanning down from the index given; 0 is the least
answer, `PPT[0]` being 1 (R174). -/
def largestIndexLe (t : Table) (bound : Int) : Nat → Nat
  | 0 => 0
  | j + 1 => if entryAt t (j + 1 : Nat) ≤ bound then j + 1 else largestIndexLe t bound j

/-- `setup(P, N, index)` with the table built for P; none when the prime 2 contributes nothing and is
skipped (R173, R174, R175). -/
def primeSetup (t : Table) (len : Nat) (p n index : Int) : Option PrimeSetup :=
  if p = 2 then
    let j2 : Int := largestIndexLe t (3 * n) (len - 1)
    let e := j2 + n - index
    if e ≤ 0 then none
    else
      let m := shiftOne e
      some { e := e, m := m, shift := powMod 5 index m, v := index }
  else
    let e : Int := (len : Int) - 1
    let m := entryAt t e
    some { e := e, m := m, shift := powMod 10 index m, v := 0 }

/-- The running values of `term_sum`: V, NUM, DEN, S (R176). -/
structure TermState where
  /-- `V`, the running exponent of the prime -/
  v : Int
  /-- `NUM` -/
  num : Int
  /-- `DEN` -/
  den : Int
  /-- `S`, the subtotal -/
  sum : Int
  deriving DecidableEq, Repr

/-- `P^(E+V)`: a power of two for the prime 2, else a table entry (R176). -/
def primePower (t : Table) (p e v : Int) : Int :=
  if p = 2 then shiftOne (e + v) else entryAt t (e + v)

/-- The term `T` of R176, its multiplications in the rule's order. -/
def termValue (t : Table) (p e m k : Int) (w : TermState) : Int :=
  mulmod (mulmod (mulmod (invMod w.den m) w.num m) (primePower t p e w.v) m) (remT (50 * k - 6) m) m

/-- The four extractions of term `k`, which net out the prime's multiplicity and multiply the reduced
factors into NUM and DEN (R176). -/
def termFactors (t : Table) (len : Nat) (m k : Int) (w : TermState) : TermState :=
  match pptExtract t len (2 * k), pptExtract t len (2 * k - 1),
        pptExtract t len (6 * k - 4), pptExtract t len (9 * k - 3) with
  | (t1, j1), (t2, j2), (t3, j3), (t4, j4) =>
    { v := w.v + j1 + j2 - j3 - j4
      num := mulmod (mulmod w.num (remT t1 m) m) (remT t2 m) m
      den := mulmod (mulmod w.den (remT t3 m) m) (remT t4 m) m
      sum := w.sum }

/-- The body of the term loop: the factors, and the term added when the running exponent is negative
(R176). -/
def termStep (t : Table) (len : Nat) (p e m k : Int) (w : TermState) : TermState :=
  let w' := termFactors t len m k w
  if w'.v < 0 then { w' with sum := remT (w'.sum + termValue t p e m k w') m } else w'

/-- The loop `for K := … to N`: the number of terms left, then the current K (R176). -/
def termLoop (t : Table) (len : Nat) (p e m : Int) : Nat → Int → TermState → TermState
  | 0, _, w => w
  | left + 1, k, w => termLoop t len p e m left (k + 1) (termStep t len p e m k w)

/-- `term_sum(P, E, M, V, N)` (R176). -/
def termSum (t : Table) (len : Nat) (p e m v n : Int) : Int :=
  (termLoop t len p e m n.toNat 1 { v := v, num := 1, den := 1, sum := 0 }).sum

/-- What `digit9` carries from prime to prime: accumulator, table, its length, the skip flag (R172). -/
structure DigitState where
  /-- `ACC_HI` -/
  hi : Int
  /-- `ACC_LO` -/
  lo : Int
  /-- `PPT` -/
  table : Table
  /-- `PPT_LEN` -/
  len : Nat
  /-- `skipped` -/
  skipped : Bool
  deriving DecidableEq, Repr

/-- One prime: build its table, set up, and, unless skipped, sum the terms, shift and fold
(R172, R173 to R177). -/
def primePass (n index p : Int) (d : DigitState) : DigitState :=
  match pptBuild p d.table with
  | (t, len) =>
    match primeSetup t len p n index with
    | none => { d with table := t, len := len, skipped := true }
    | some u =>
      match accAdd (mulmod (termSum t len p u.e u.m u.v n) u.shift u.m) u.m d.hi d.lo with
      | (hi, lo) => { d with hi := hi, lo := lo, table := t, len := len }

/-- The loop `while P ≤ 3·N`, at most as often as the first argument says (R172). -/
def primeLoop (n index : Int) : Nat → Int → DigitState → DigitState
  | 0, _, d => d
  | fuel + 1, p, d =>
    if p ≤ 3 * n then primeLoop n index fuel (nextPrime p) (primePass n index p d) else d

/-- `digit9(index)` from a table: the final accumulator, table and skip flag (R172). The accumulator is
cleared first. At most 3·N primes are at most 3·N (log entry 12). -/
def digit9 (index : Int) (t : Table) : DigitState :=
  let n := termCount index
  primeLoop n index (3 * n).toNat 2 { hi := 0, lo := 0, table := t, len := 0, skipped := false }

/-- DIGIT9 (R170, R178, R182). -/
def execDigit9 (s : State) : Host.Outcome State Fault Refusal :=
  let index := operand s .a0
  if index < 0 then .next (raiseCause .invalidInput s)
  else if Config.indexMax < index then .next (raiseCause .outOfRange s)
  else
    let d := digit9 index s.ppt
    .next (complete d.skipped
      (setR1 (termCount index) (setR0 d.hi (setAcc d.hi d.lo (setTable d.table d.len s)))))

end Sys2Proof.Machine
end

