-- ==== Sys2Proof/Machine/Dispatch.lean ====
section
/-! DEFINITION. One arm per command: its meaning (R71). -/

namespace Sys2Proof.Machine

def exec (i : Instr) (s : State) : Host.Outcome State Fault Refusal :=
  match i with
  | .nop => Sys2Proof.Machine.execNop s
  | .powmod => Sys2Proof.Machine.execPowmod s
  | .invmod => Sys2Proof.Machine.execInvmod s
  | .isprime => Sys2Proof.Machine.execIsprime s
  | .nextprime => Sys2Proof.Machine.execNextprime s
  | .pptbuild => Sys2Proof.Machine.execPptbuild s
  | .pptextract => Sys2Proof.Machine.execPptextract s
  | .accadd => Sys2Proof.Machine.execAccadd s
  | .accclr => Sys2Proof.Machine.execAccclr s
  | .digit9 => Sys2Proof.Machine.execDigit9 s

end Sys2Proof.Machine
end

