-- ==== Sys2Proof/Machine/Step.lean ====
section
/-! DEFINITION. One step of the block: the oldest event the host has presented takes its whole effect
(R54, R59). -/

namespace Sys2Proof.Machine

/-- Steps 2 and 3 of R54 for a word already stored in `CMD`: decode it; an illegal word raises
`IllegalCommand` before any operand is looked at (R216, R219); otherwise the command runs to completion. -/
def runCommand (w : Word) (s : State) : Host.Outcome State Fault Refusal :=
  match decode w with
  | .ok i => exec i s
  | .error _ => .next (raiseCause .illegalCommand s)

/-- A host write: the word is stored where the map lets it be (R53); a write to `CMD` then executes it in
the same atomic step (R54). -/
def hostWrite (addr : Address) (v : Word) (s : State) : Host.Outcome State Fault Refusal :=
  if addr = cmdAddr then runCommand v (storeAddr s addr v) else .next (storeAddr s addr v)

/-- One step: the oldest pending event, entire, before the next begins (R59). With nothing pending the
block waits for the next transaction (R24) and the step changes nothing (log entry 1). -/
def step (s : State) : Host.Outcome State Fault Refusal :=
  match s.pending with
  | [] => .next s
  | .read addr :: rest => .next (hostRead addr (takeEvent rest s))
  | .write addr v :: rest => hostWrite addr v (takeEvent rest s)
  | .reset :: rest => .next (hostReset (takeEvent rest s))

/-- `s` with a table row's word as the host's very next transaction, a write to `CMD`: the block fetches
nothing (R24, R61), the word written to `CMD` is what it executes (R54; log entry 1). -/
def State.withFetchWord (s : State) (nbits w : Nat) : State :=
  presentCommand (tableCommandWord nbits w) s

end Sys2Proof.Machine
end

