-- ==== Sys2Proof/Machine/Platform.lean ====
section
/-! DEFINITION. The register space as a byte-addressed platform sees it: word i at byte offset 4·i from
BASE, little-endian, aligned word accesses only (R56, R57, D21; log entry 10). -/

namespace Sys2Proof.Machine

/-- The byte address of a word of the register space (R56). -/
def platformAddr (addr : Address) : Nat := Config.base + 4 * addr.toNat

/-- The word address a byte address names; none outside the 128 words and at a misaligned address, which
"does not reach the block" (R57). -/
def wordAddr (n : Nat) : Option Address :=
  if Config.base ≤ n ∧ n < Config.base + 512 ∧ (n - Config.base) % 4 = 0 then
    some (BitVec.ofNat 7 ((n - Config.base) / 4))
  else none

/-- The four bytes a platform read of an aligned word gives, lowest address first (R56). -/
def platformRead (s : State) (n : Nat) : Option (List Byte) :=
  (wordAddr n).map fun addr => wordBytes (readAddr s addr)

/-- The transaction a platform write of four bytes at an aligned address reaches the block as (R56). -/
def platformWrite (n : Nat) (b0 b1 b2 b3 : Byte) : Option HostEvent :=
  (wordAddr n).map fun addr => .write addr (b3 ++ b2 ++ b1 ++ b0)

end Sys2Proof.Machine
end

