-- ==== Sys2Proof/Machine/Record.lean ====
section
/-! DEFINITION. The 40-bit transaction record, a notation for one host transaction (R74). -/

namespace Sys2Proof.Machine

/-- Why a record is refused (log entry 9). -/
inductive RecordError where
  /-- a read whose data field is not 0: R74 gives the data of a read as 0 -/
  | readWithData
  deriving DecidableEq, Repr

/-- The record of a transaction: `we` 39, `addr` 38:32, `data` 31:0, the data of a read being 0 (R74).
The reset event is no transaction and has none. -/
def encodeRecord : HostEvent → Option (BitVec 40)
  | .read addr => some ((0 : BitVec 1) ++ addr ++ (0 : Word))
  | .write addr v => some ((1 : BitVec 1) ++ addr ++ v)
  | .reset => none

/-- The transaction a record stands for (R74). -/
def decodeRecord (r : BitVec 40) : Except RecordError HostEvent :=
  if recordWf r then
    if r.getLsbD 39 then .ok (.write (r.extractLsb 38 32) (r.extractLsb 31 0))
    else .ok (.read (r.extractLsb 38 32))
  else .error .readWithData

end Sys2Proof.Machine
end

