-- ==== Sys2Proof/Machine/Script.lean ====
section
/-! DEFINITION. Host scripts: the lines of R75, the pseudo-instructions of R76, their expansion into
transactions, and the reading of a line's text (R75; log entry 11). -/

namespace Sys2Proof.Machine

/-- A line of a host script (R75), a pseudo-instruction (R76) among them. -/
inductive ScriptLine where
  /-- `WR reg, value` -/
  | wr (reg : RegName) (value : Word)
  /-- `RD reg`, and `RD reg = value`, the same read with the value as a check -/
  | rd (reg : RegName) (expected : Option Word)
  /-- a mnemonic with no operands -/
  | bare (i : Instr)
  /-- `POWMOD a, b, m` -/
  | powmod (a b m : Word)
  /-- `INVMOD a, m` -/
  | invmod (a m : Word)
  /-- `ISPRIME n` -/
  | isprime (n : Word)
  /-- `NEXTPRIME n` -/
  | nextprime (n : Word)
  /-- `PPTBUILD p` -/
  | pptbuild (p : Word)
  /-- `PPTEXTRACT n` -/
  | pptextract (n : Word)
  /-- `ACCADD n, d` -/
  | accadd (n d : Word)
  /-- `DIGIT9 index` -/
  | digit9 (index : Word)
  /-- `CMDW word` -/
  | cmdw (word : Word)
  deriving DecidableEq, Repr

/-- The write of a register by name (R75). -/
def wrEvent (reg : RegName) (v : Word) : HostEvent := .write (addressOf reg) v

/-- The write of a command's word to `CMD` (R75). -/
def commandEvent (i : Instr) : HostEvent := wrEvent .cmd (encode i)

/-- The transactions a line stands for, in order (the tables of R75 and R76). -/
def expandLine : ScriptLine → List HostEvent
  | .wr reg v => [wrEvent reg v]
  | .rd reg _ => [.read (addressOf reg)]
  | .bare i => [commandEvent i]
  | .powmod a b m => [wrEvent .a0 a, wrEvent .a1 b, wrEvent .a2 m, commandEvent .powmod]
  | .invmod a m => [wrEvent .a0 a, wrEvent .a1 m, commandEvent .invmod]
  | .isprime n => [wrEvent .a0 n, commandEvent .isprime]
  | .nextprime n => [wrEvent .a0 n, commandEvent .nextprime]
  | .pptbuild p => [wrEvent .a0 p, commandEvent .pptbuild]
  | .pptextract n => [wrEvent .a0 n, commandEvent .pptextract]
  | .accadd n d => [wrEvent .a0 n, wrEvent .a1 d, commandEvent .accadd]
  | .digit9 index => [wrEvent .a0 index, commandEvent .digit9]
  | .cmdw w => [wrEvent .cmd w]

/-- The transactions of a script, line after line (R75: no labels, branches or loops). -/
def expandScript (lines : List ScriptLine) : List HostEvent := lines.flatMap expandLine

/-! ### Reading a line's text -/

/-- Why a line of text is refused. -/
inductive ScriptError where
  /-- no register of R51 has this name -/
  | unknownRegister
  /-- not a decimal or `0x` hexadecimal number -/
  | notANumber
  /-- a number that no 32-bit word holds, signed or unsigned -/
  | numberTooLarge
  /-- not one of the line forms of R75 and R76 -/
  | unknownLine
  deriving DecidableEq, Repr

/-- The value of a digit in a base up to 16. -/
def digitValue (base : Nat) (c : Char) : Option Nat :=
  let n := c.toNat
  let v := if 48 ≤ n ∧ n ≤ 57 then n - 48
    else if 97 ≤ n ∧ n ≤ 102 then n - 87
    else if 65 ≤ n ∧ n ≤ 70 then n - 55
    else base
  if v < base then some v else none

/-- The number digits stand for, most significant first. -/
def digitsValue (base : Nat) : List Char → Nat → Option Nat
  | [], acc => some acc
  | c :: cs, acc =>
    match digitValue base c with
    | some v => digitsValue base cs (acc * base + v)
    | none => none

/-- A number of one digit or more. -/
def naturalOf (base : Nat) (cs : List Char) : Option Nat :=
  if cs.isEmpty then none else digitsValue base cs 0

/-- A value: "decimal, optionally signed, or `0x` hexadecimal" (R75). -/
def integerOf : List Char → Option Int
  | '-' :: cs => (naturalOf 10 cs).map fun n => -(n : Int)
  | '+' :: cs => (naturalOf 10 cs).map fun n => (n : Int)
  | '0' :: 'x' :: cs => (naturalOf 16 cs).map fun n => (n : Int)
  | cs => (naturalOf 10 cs).map fun n => (n : Int)

/-- The word a value stands for: any integer from -2^31 to 2^32 - 1 (log entry 11). -/
def wordOf (cs : List Char) : Except ScriptError Word :=
  match integerOf cs with
  | none => .error .notANumber
  | some z => if minWord ≤ z ∧ z < 2 ^ 32 then .ok (BitVec.ofInt 32 z) else .error .numberTooLarge

/-- The names of the registers that have no index (R51). -/
def plainNames : List (List Char × RegName) :=
  [(['C', 'M', 'D'], .cmd), (['S', 'T', 'A', 'T', 'U', 'S'], .status),
   (['A', '0'], .a0), (['A', '1'], .a1), (['A', '2'], .a2), (['R', '0'], .r0), (['R', '1'], .r1),
   (['A', 'C', 'C', '_', 'H', 'I'], .accHi), (['A', 'C', 'C', '_', 'L', 'O'], .accLo),
   (['P', 'P', 'T', '_', 'L', 'E', 'N'], .pptLen)]

/-- A decimal index followed by the closing bracket (R75). -/
def indexOf (cs : List Char) : Option Nat :=
  match cs.reverse with
  | ']' :: ds => naturalOf 10 ds.reverse
  | _ => none

/-- The register of a name: a plain name, `PPT[j]` or `PRIME_ROM[i]` (R75). -/
def registerOf (cs : List Char) : Except ScriptError RegName :=
  match plainNames.lookup cs with
  | some r => .ok r
  | none =>
    match cs with
    | 'P' :: 'P' :: 'T' :: '[' :: rest =>
      match indexOf rest with
      | some j => if h : j < 16 then .ok (.ppt ⟨j, h⟩) else .error .unknownRegister
      | none => .error .unknownRegister
    | 'P' :: 'R' :: 'I' :: 'M' :: 'E' :: '_' :: 'R' :: 'O' :: 'M' :: '[' :: rest =>
      match indexOf rest with
      | some i => if h : i < 47 then .ok (.primeRom ⟨i, h⟩) else .error .unknownRegister
      | none => .error .unknownRegister
    | _ => .error .unknownRegister

/-- The mnemonics of R71. -/
def mnemonicNames : List (List Char × Instr) :=
  [(['N', 'O', 'P'], .nop), (['P', 'O', 'W', 'M', 'O', 'D'], .powmod),
   (['I', 'N', 'V', 'M', 'O', 'D'], .invmod), (['I', 'S', 'P', 'R', 'I', 'M', 'E'], .isprime),
   (['N', 'E', 'X', 'T', 'P', 'R', 'I', 'M', 'E'], .nextprime),
   (['P', 'P', 'T', 'B', 'U', 'I', 'L', 'D'], .pptbuild),
   (['P', 'P', 'T', 'E', 'X', 'T', 'R', 'A', 'C', 'T'], .pptextract),
   (['A', 'C', 'C', 'A', 'D', 'D'], .accadd), (['A', 'C', 'C', 'C', 'L', 'R'], .accclr),
   (['D', 'I', 'G', 'I', 'T', '9'], .digit9)]

/-- The tokens of a line up to its comment: commas and equals signs stand alone, blanks separate
(R75). -/
def tokensOf : List Char → List Char → List (List Char)
  | [], cur => if cur.isEmpty then [] else [cur]
  | c :: cs, cur =>
    let close : List (List Char) := if cur.isEmpty then [] else [cur]
    if c = ';' then close
    else if c = ' ' then close ++ tokensOf cs []
    else if c = ',' ∨ c = '=' then close ++ [[c]] ++ tokensOf cs []
    else tokensOf cs (cur ++ [c])

/-- A pseudo-instruction with one operand (R76). -/
def unaryLine (i : Instr) (x : Word) : Except ScriptError ScriptLine :=
  match i with
  | .isprime => .ok (.isprime x)
  | .nextprime => .ok (.nextprime x)
  | .pptbuild => .ok (.pptbuild x)
  | .pptextract => .ok (.pptextract x)
  | .digit9 => .ok (.digit9 x)
  | .nop => .error .unknownLine
  | .powmod => .error .unknownLine
  | .invmod => .error .unknownLine
  | .accadd => .error .unknownLine
  | .accclr => .error .unknownLine

/-- A pseudo-instruction with two operands (R76). -/
def binaryLine (i : Instr) (x y : Word) : Except ScriptError ScriptLine :=
  match i with
  | .invmod => .ok (.invmod x y)
  | .accadd => .ok (.accadd x y)
  | .nop => .error .unknownLine
  | .powmod => .error .unknownLine
  | .isprime => .error .unknownLine
  | .nextprime => .error .unknownLine
  | .pptbuild => .error .unknownLine
  | .pptextract => .error .unknownLine
  | .accclr => .error .unknownLine
  | .digit9 => .error .unknownLine

/-- The line a mnemonic and its operands stand for (R75, R76). -/
def mnemonicLine (name : List Char) (operands : List (List Char)) : Except ScriptError ScriptLine :=
  match mnemonicNames.lookup name, operands with
  | some i, [] => .ok (.bare i)
  | some i, [x] => do
    let x' ← wordOf x
    unaryLine i x'
  | some i, [x, [','], y] => do
    let x' ← wordOf x
    let y' ← wordOf y
    binaryLine i x' y'
  | some .powmod, [x, [','], y, [','], z] => do
    let x' ← wordOf x
    let y' ← wordOf y
    let z' ← wordOf z
    .ok (.powmod x' y' z')
  | _, _ => .error .unknownLine

/-- The line that tokens stand for (R75, R76). -/
def lineOf (tokens : List (List Char)) : Except ScriptError ScriptLine :=
  match tokens with
  | [['W', 'R'], reg, [','], value] => do
    let r ← registerOf reg
    let v ← wordOf value
    .ok (.wr r v)
  | [['R', 'D'], reg] => do
    let r ← registerOf reg
    .ok (.rd r none)
  | [['R', 'D'], reg, ['='], value] => do
    let r ← registerOf reg
    let v ← wordOf value
    .ok (.rd r (some v))
  | [['C', 'M', 'D', 'W'], value] => do
    let v ← wordOf value
    .ok (.cmdw v)
  | name :: operands => mnemonicLine name operands
  | [] => .error .unknownLine

/-- The line a text line stands for; none for a blank line or a comment (R75). -/
def readLine (text : List Char) : Except ScriptError (Option ScriptLine) :=
  match tokensOf text [] with
  | [] => .ok none
  | tokens =>
    match lineOf tokens with
    | .ok l => .ok (some l)
    | .error e => .error e

end Sys2Proof.Machine
end

