-- ==== Sys2Proof/Machine/Sequencer.lean ====
section
/-! DEFINITION. The controller's sequencing position and the loop structure of DIGIT9, one transition at a
time (R24, R30, R179). It is no part of State: the host never sees a phase other than IDLE (R54, R179;
log entry 2). -/

namespace Sys2Proof.Machine

/-- The phases of `seq` (R24). -/
inductive Phase where
  | idle
  | init
  | primeSetup
  | term
  | fold
  | advance
  | finish
  deriving DecidableEq, Repr

/-- `seq = (phase, P, K)` with the working registers of the DEC (R24, R30). -/
structure Seq where
  phase : Phase
  /-- `P`, the current prime -/
  p : Int
  /-- `K`, the current term number -/
  k : Int
  /-- the digit index -/
  index : Int
  /-- `N` -/
  n : Int
  /-- `E`, `M`, `SHIFT` and the starting `V` of the current prime -/
  setup : PrimeSetup
  /-- `V`, `NUM`, `DEN`, `S` -/
  work : TermState
  /-- accumulator, table, length, skip flag -/
  digit : DigitState
  deriving DecidableEq, Repr

/-- The starting values of the term loop, on the transition from PRIME_SETUP to TERM (R176). -/
def startTerms (v : Int) : TermState := { v := v, num := 1, den := 1, sum := 0 }

/-- The controller when a DIGIT9 command has passed its checks: IDLE to INIT (R179). DESIGN CHOICE: R30 and
R32 leave the working registers unspecified on entering INIT; the model starts P, K, N, E, M, SHIFT, V, S,
the two limbs, the length and the skip flag at 0, NUM and DEN at 1. Nothing reads them before INIT,
PRIME_SETUP or the table's build has written them (log entry 15). -/
def seqStart (index : Int) (t : Table) : Seq where
  phase := .init
  p := 0
  k := 0
  index := index
  n := 0
  setup := { e := 0, m := 0, shift := 0, v := 0 }
  work := startTerms 0
  digit := { hi := 0, lo := 0, table := t, len := 0, skipped := false }

/-- INIT: the term count, the cleared accumulator, the prime 2 (R172). -/
def seqInit (q : Seq) : Seq :=
  { q with
    phase := .primeSetup
    p := 2
    n := termCount q.index
    digit := { q.digit with hi := 0, lo := 0, skipped := false } }

/-- PRIME_SETUP: build the table; TERM with K = 1, or ADVANCE when the prime 2 is skipped
(R172, R174). -/
def seqPrimeSetup (q : Seq) : Seq :=
  match pptBuild q.p q.digit.table with
  | (t, len) =>
    match primeSetup t len q.p q.n q.index with
    | none => { q with phase := .advance, digit := { q.digit with table := t, len := len, skipped := true } }
    | some u =>
      { q with
        phase := .term
        k := 1
        setup := u
        work := startTerms u.v
        digit := { q.digit with table := t, len := len } }

/-- TERM: the body of the term loop for K; then TERM with K + 1, or FOLD when K = N (R176, R179). -/
def seqTerm (q : Seq) : Seq :=
  let w := termStep q.digit.table q.digit.len q.p q.setup.e q.setup.m q.k q.work
  if q.k < q.n then { q with k := q.k + 1, work := w } else { q with phase := .fold, work := w }

/-- FOLD: shift and fold the subtotal (R177). -/
def seqFold (q : Seq) : Seq :=
  match accAdd (mulmod q.work.sum q.setup.shift q.setup.m) q.setup.m q.digit.hi q.digit.lo with
  | (hi, lo) => { q with phase := .advance, digit := { q.digit with hi := hi, lo := lo } }

/-- ADVANCE: the next prime; PRIME_SETUP while it is at most 3·N, else FINISH (R172, R179). -/
def seqAdvance (q : Seq) : Seq :=
  if nextPrime q.p ≤ 3 * q.n then { q with phase := .primeSetup, p := nextPrime q.p }
  else { q with phase := .finish, p := nextPrime q.p }

/-- One transition of the controller (the table of R179); IDLE is left only by a command. -/
def seqStep (q : Seq) : Seq :=
  match q.phase with
  | .idle => q
  | .init => seqInit q
  | .primeSetup => seqPrimeSetup q
  | .term => seqTerm q
  | .fold => seqFold q
  | .advance => seqAdvance q
  | .finish => { q with phase := .idle }

/-- A number of transitions. -/
def seqRun : Nat → Seq → Seq
  | 0, q => q
  | j + 1, q => seqRun j (seqStep q)

/-- The rows of the transition table of R179, from a phase to a phase. -/
def phaseTable : List (Phase × Phase) :=
  [(.idle, .init), (.init, .primeSetup), (.primeSetup, .term), (.primeSetup, .advance),
   (.term, .term), (.term, .fold), (.fold, .advance), (.advance, .primeSetup),
   (.advance, .finish), (.finish, .idle)]

end Sys2Proof.Machine
end

