-- ==== Sys2Proof/Safety.lean ====
section
/-! DEFINITION. What counts as a good state and as an in-domain operand: the invariants of R25, R27 and
R28 and the preconditions of R112, R123 and R158, in the terms the statements use. -/

namespace Sys2Proof.Machine

/-- Both limbs lie in [0, 10⁹) (R27). -/
def State.LimbsOk (s : State) : Prop :=
  0 ≤ s.accHi.toInt ∧ s.accHi.toInt < Config.limb ∧ 0 ≤ s.accLo.toInt ∧ s.accLo.toInt < Config.limb

/-- The table holds the powers of `p` that do not exceed PP_CEIL, ascending from `p^0`, and its length is
their count (R28, R136). -/
def State.TableOf (s : State) (p : Int) : Prop :=
  2 ≤ p ∧ 1 ≤ s.pptLen.toInt ∧ s.pptLen.toInt ≤ 16 ∧
  (∀ j : Fin 16, (j.val : Int) < s.pptLen.toInt →
    s.ppt[j].toInt = p ^ j.val ∧ p ^ j.val ≤ Config.ppCeil) ∧
  Config.ppCeil < p ^ s.pptLen.toInt.toNat

/-- The table is empty, as after reset (R32), or holds the powers of some `p` (R28). -/
def State.TableOk (s : State) : Prop :=
  s.pptLen = 0 ∨ ∃ p : Int, s.TableOf p

/-- STATUS is a word the block can have written: reserved bits 0, a cause code from 0 to 3, DONE only with
no cause, SKIP2 only with DONE, FAULT whenever there is a cause (R25, R215). -/
def State.StatusOk (s : State) : Prop :=
  statusReserved s.status = 0 ∧ (statusCause s.status).toNat ≤ 3 ∧
  (statusDone s.status = true → statusCause s.status = 0) ∧
  (statusSkip2 s.status = true → statusDone s.status = true) ∧
  (statusCause s.status ≠ 0 → statusFault s.status = true)

/-- The invariant of the architectural state (R25, R27, R28, R241). -/
def State.Inv (s : State) : Prop :=
  s.LimbsOk ∧ s.TableOk ∧ s.StatusOk

/-- In-domain operands of `pow_mod`: the base of either sign within MOD_SAFE and a modulus within
MOD_SAFE, or a power-of-two modulus up to 2^30 with any base (R112). -/
def PowDomain (a b m : Int) : Prop :=
  0 ≤ b ∧ 1 ≤ m ∧
  ((-Config.modSafe ≤ a ∧ a ≤ Config.modSafe ∧ m ≤ Config.modSafe) ∨
    (IsWord a ∧ ∃ e : Nat, e ≤ 30 ∧ m = 2 ^ e))

/-- In-domain operands of `inv_mod`, case (i) of R123: a modulus within MOD_SAFE. -/
def InvDomain (a m : Int) : Prop :=
  1 ≤ m ∧ -m < a ∧ a < m ∧ Int.gcd a m = 1 ∧ m ≤ Config.modSafe

/-- In-domain operands of `inv_mod`, case (ii) of R123: a power of two up to 2^19 and an odd value of
smaller magnitude (0 for the modulus 1). -/
def InvDomainTwo (a m : Int) : Prop :=
  -m < a ∧ a < m ∧ Int.gcd a m = 1 ∧ ∃ e : Nat, e ≤ 19 ∧ m = 2 ^ e

/-- In-domain numerator and denominator of `acc_add` (R158). -/
def AccDomain (n d : Int) : Prop :=
  (1 ≤ d ∧ d ≤ Config.accThresh ∧ 0 ≤ n ∧ n ≤ d) ∨
  (∃ e : Nat, 16 ≤ e ∧ e ≤ 24 ∧ d = 2 ^ e ∧ 0 ≤ n ∧ n < d)

/-- Both limbs in [0, 10⁹) (R27, R158). -/
def LimbPair (hi lo : Int) : Prop :=
  0 ≤ hi ∧ hi < Config.limb ∧ 0 ≤ lo ∧ lo < Config.limb

/-- `val(hi, lo) = hi·10⁹ + lo` (R150). -/
def accVal (hi lo : Int) : Int := hi * Config.limb + lo

/-- STATUS after a command that completed without SKIP2: FAULT kept, DONE, no cause (R25, R110). -/
def doneStatus (old : Word) : Word := (old &&& 0x80000000#32) ||| 0x00000010#32

/-- STATUS after a DIGIT9 that completed and skipped the prime 2 (R25, R170, R174). -/
def skippedStatus (old : Word) : Word := (old &&& 0x80000000#32) ||| 0x00000030#32

/-- The operands a command refuses with `InvalidInput` (the table of R217). -/
def InvalidOperands (s : State) : Instr → Prop
  | .nop => False
  | .powmod => s.a1.toInt < 0 ∨ s.a2.toInt ≤ 0
  | .invmod => s.a1.toInt ≤ 0
  | .isprime => False
  | .nextprime => False
  | .pptbuild => s.a0.toInt < 2
  | .pptextract => False
  | .accadd => s.a1.toInt ≤ 0
  | .accclr => False
  | .digit9 => s.a0.toInt < 0

/-- The invariants of `inv_mod`'s loop for a modulus `m` and a normalised input `a0` (R122). -/
def BezoutInv (m a0 a b x y : Int) : Prop :=
  0 ≤ a ∧ a ≤ m ∧ 0 ≤ b ∧ b ≤ m ∧ 0 ≤ x ∧ x ≤ m ∧ y ≤ 0 ∧ -m ≤ y ∧
  m ∣ a - x * a0 ∧ m ∣ b - y * a0 ∧ x * b - y * a = m ∧ Int.gcd a b = Int.gcd a0 m

/-- What one prime adds to the sum of DIGIT9, in units of 10⁻¹⁸: its shifted subtotal over its modulus,
truncated; nothing when the prime is skipped (R172, R176, R177). -/
def primeFraction (index p : Int) : Int :=
  match pptBuild p State.reset.ppt with
  | (t, len) =>
    match primeSetup t len p (termCount index) index with
    | none => 0
    | some u =>
      mulmod (termSum t len p u.e u.m u.v (termCount index)) u.shift u.m * 10 ^ 18 / u.m

/-- The numerator of the product of R176 after K terms: the factors 2j and 2j - 1, j from 1 to K. -/
def seriesNum (k : Nat) : Nat := ∏ j ∈ Finset.Icc 1 k, (2 * j) * (2 * j - 1)

/-- The denominator of the product of R176 after K terms: the factors 6j - 4 and 9j - 3, j from 1 to K. -/
def seriesDen (k : Nat) : Nat := ∏ j ∈ Finset.Icc 1 k, (6 * j - 4) * (9 * j - 3)

/-- The part of `n` prime to `p`: `n` with every factor `p` divided out (R176). -/
def primeFree (p n : Nat) : Nat := n / p ^ padicValNat p n

/-- The running exponent of R176 after K terms, from its start V₀: the multiplicity of `p` in the product's
numerator less that in its denominator. -/
def seriesExp (p : Nat) (v₀ : Int) (k : Nat) : Int :=
  v₀ + padicValNat p (seriesNum k) - padicValNat p (seriesDen k)

/-- A digit index DIGIT9 accepts (R170). -/
def IndexOk (index : Int) : Prop := 0 ≤ index ∧ index ≤ Config.indexMax

end Sys2Proof.Machine
end

