-- ==== Sys2Proof/Certificates/Slice0/Obligations.lean ====
section
/-! DEFINITION. The statements about the model, for the provers. Each docstring says which rule of spec/ it
formalises. A host write is `hostWrite addr v s` (R53, R54); the queue `pending` and the latch `returned`,
which only the statements about `step` mention, are the model's choice (log entry 1). -/

open Sys2Proof Sys2Proof.Machine

/-! ### Encoding -/

/-- R71, R70: the ten command words, all 32 bits taking part; and what the well-formedness check accepts
is what decodes. -/
def Obligations.DecodesExactlyTheTenWords : Prop :=
  (∀ (w : Word) (i : Instr), decode w = .ok i ↔ w = encode i) ∧
  (∀ w : Word, commandWordWf w = true ↔ ∃ i, decode w = .ok i) ∧
  encode .nop = 0x00000000#32 ∧ encode .powmod = 0x00000001#32 ∧ encode .invmod = 0x00000002#32 ∧
  encode .isprime = 0x00000003#32 ∧ encode .nextprime = 0x00000004#32 ∧
  encode .pptbuild = 0x00000005#32 ∧ encode .pptextract = 0x00000006#32 ∧
  encode .accadd = 0x00000007#32 ∧ encode .accclr = 0x00000008#32 ∧ encode .digit9 = 0x00000009#32

/-- R71, R73, one word of each unit written out, and two words refused by name. -/
def Obligations.TableWordsDecodeAsTheTableSays : Prop :=
  decodeTableWord 32 0x00000001 = some .powmod ∧ decodeTableWord 32 0x00000002 = some .invmod ∧
  decodeTableWord 32 0x00000004 = some .nextprime ∧ decodeTableWord 32 0x00000007 = some .accadd ∧
  decodeTableWord 32 0x00000009 = some .digit9 ∧
  decode 0x0000000A#32 = .error .opcodeUnassigned ∧
  decode 0x00000101#32 = .error .reservedFieldNotZero

/-- R73, R216: a word that is none of the ten is one with a reserved bit set or an opcode above 9, and
writing it to CMD leaves it in CMD, records IllegalCommand and changes nothing else. -/
def Obligations.IllegalWordOnlyRaisesIllegalCommand : Prop :=
  (∀ w : Word, (∀ i, w ≠ encode i) ↔
    (w.extractLsb 31 8 ≠ 0 ∨ (w.extractLsb 31 8 = 0 ∧ 0x0A ≤ (w.extractLsb 7 0).toNat))) ∧
  (∀ (w : Word) (s : State), (∀ i, w ≠ encode i) →
    hostWrite cmdAddr w s = .next { s with cmd := w, status := 0x80000001#32 })

/-- R74: the record of a transaction stands for it and for nothing else, a read with data is refused, and
the first two hexadecimal digits are `we·0x80 + addr`. -/
def Obligations.TransactionRecordsRoundTrip : Prop :=
  (∀ (ev : HostEvent) (r : BitVec 40), encodeRecord ev = some r ↔ decodeRecord r = .ok ev) ∧
  (∀ (addr : Address) (r : BitVec 40), encodeRecord (.read addr) = some r →
    r.toNat = addr.toNat * 2 ^ 32) ∧
  (∀ (addr : Address) (v : Word) (r : BitVec 40), encodeRecord (.write addr v) = some r →
    r.toNat = (0x80 + addr.toNat) * 2 ^ 32 + v.toNat) ∧
  (∀ r : BitVec 40, r.toNat < 2 ^ 39 → r.toNat % 2 ^ 32 ≠ 0 →
    decodeRecord r = .error .readWithData)

/-! ### The step -/

/-- R24, R52, R54, R55, R59, R240: a step takes the oldest event, entire. The queue and the latch are the
model's choice (log entry 1). -/
def Obligations.StepTakesTheOldestEvent : Prop :=
  ∀ (s : State) (rest : List HostEvent),
    (s.pending = [] → step s = .next s) ∧
    (∀ addr, s.pending = .read addr :: rest →
      step s = .next { s with pending := rest, returned := some (readAddr s addr) }) ∧
    (∀ addr v, s.pending = .write addr v :: rest →
      step s = hostWrite addr v { s with pending := rest, returned := none }) ∧
    (s.pending = .reset :: rest → step s = .next { State.reset with pending := rest })

/-- R54: when the next event is a write to CMD of a word that decodes, the step stores the word and runs
exactly that command; `withFetchWord` presents such a write. The queue is the model's choice (log
entry 1). -/
def Obligations.StepRunsTheDecodedCommand : Prop :=
  ∀ (s : State) (w : Word) (i : Instr), decode w = .ok i →
    (∀ rest, s.pending = .write 0x00#7 w :: rest →
      step s = exec i { s with cmd := w, pending := rest, returned := none }) ∧
    step (s.withFetchWord 32 w.toNat) = exec i { s with cmd := w, returned := none }

/-- R251: every command terminates for every operand, so every step answers a next state. -/
def Obligations.EveryStepAnswersANextState : Prop :=
  ∀ s : State, ∃ t, step s = .next t

/-! ### The commands -/

/-- R200: NOP writes STATUS only. -/
def Obligations.NopCompletes : Prop :=
  decode 0x00000000#32 = .ok .nop ∧
  ∀ s : State, exec .nop s = .next { s with status := (s.status &&& 0x80000000#32) ||| 0x00000010#32 }

/-- R110: POWMOD refuses a negative exponent and a modulus below 1, and otherwise writes `pow_mod` of its
operands to R0, whole, and STATUS, and nothing else. -/
def Obligations.PowmodCompletes : Prop :=
  decode 0x00000001#32 = .ok .powmod ∧
  ∀ s : State,
    ((s.a1.toInt < 0 ∨ s.a2.toInt ≤ 0) → exec .powmod s = .next { s with status := 0x80000002#32 }) ∧
    (0 ≤ s.a1.toInt → 0 < s.a2.toInt →
      ∃ t, exec .powmod s = .next t ∧
        t = { s with r0 := t.r0, status := doneStatus s.status } ∧
        t.r0.toInt = powMod s.a0.toInt s.a1.toInt s.a2.toInt ∧
        0 ≤ t.r0.toInt ∧ t.r0.toInt < s.a2.toInt)

/-- R112: in-domain, POWMOD gives the least non-negative residue of the power, with a⁰ = 1; a negative base
within MOD_SAFE is in the domain, no product leaving 32 bits. -/
def Obligations.PowmodExactInDomain : Prop :=
  ∀ s : State, PowDomain s.a0.toInt s.a1.toInt s.a2.toInt →
    ∃ t, exec .powmod s = .next t ∧
      t.r0.toInt = (s.a0.toInt ^ s.a1.toInt.toNat) % s.a2.toInt

/-- R113, C2: the corner cases that hold in and out of domain: modulus 1 gives 0 for every base and
exponent, exponent 0 gives 1 for every modulus above 1, base 0 with a positive exponent gives 0. -/
def Obligations.PowmodCornerCases : Prop :=
  ∀ s : State, 0 ≤ s.a1.toInt →
    (s.a2.toInt = 1 → ∃ t, exec .powmod s = .next t ∧ t.r0.toInt = 0) ∧
    (2 ≤ s.a2.toInt → s.a1.toInt = 0 → ∃ t, exec .powmod s = .next t ∧ t.r0.toInt = 1) ∧
    (2 ≤ s.a2.toInt → s.a0.toInt = 0 → 0 < s.a1.toInt →
      ∃ t, exec .powmod s = .next t ∧ t.r0.toInt = 0)

/-- R120: INVMOD refuses a modulus below 1, and otherwise writes `inv_mod` of its operands to R0, whole,
and STATUS, and nothing else. -/
def Obligations.InvmodCompletes : Prop :=
  decode 0x00000002#32 = .ok .invmod ∧
  ∀ s : State,
    (s.a1.toInt ≤ 0 → exec .invmod s = .next { s with status := 0x80000002#32 }) ∧
    (0 < s.a1.toInt →
      ∃ t, exec .invmod s = .next t ∧
        t = { s with r0 := t.r0, status := doneStatus s.status } ∧
        t.r0.toInt = invMod s.a0.toInt s.a1.toInt)

/-- R122, R123 (i): for a modulus within MOD_SAFE and a coprime value of smaller magnitude, INVMOD gives
the inverse: eleven iterations are enough. -/
def Obligations.InvmodExactWithinModSafe : Prop :=
  ∀ s : State, InvDomain s.a0.toInt s.a1.toInt →
    ∃ t, exec .invmod s = .next t ∧
      0 ≤ t.r0.toInt ∧ t.r0.toInt < s.a1.toInt ∧
      (s.a0.toInt * t.r0.toInt) % s.a1.toInt = 1 % s.a1.toInt

/-- R122, R123 (ii): for a power-of-two modulus up to 2^19, those above MOD_SAFE among them, and a coprime
value of smaller magnitude, INVMOD gives the inverse. -/
def Obligations.InvmodExactForPowersOfTwo : Prop :=
  ∀ s : State, InvDomainTwo s.a0.toInt s.a1.toInt →
    ∃ t, exec .invmod s = .next t ∧
      0 ≤ t.r0.toInt ∧ t.r0.toInt < s.a1.toInt ∧
      (s.a0.toInt * t.r0.toInt) % s.a1.toInt = 1 % s.a1.toInt

/-- R122, R125: for a modulus below 2^30 the start of the loop meets the invariants and each half-step
keeps them, so no `wrap32` of the loop changes a value. -/
def Obligations.InversionHalfStepsKeepTheInvariants : Prop :=
  ∀ m a0 a b x y : Int, 1 ≤ m → m < 2 ^ 30 →
    (0 ≤ a0 → a0 ≤ m → BezoutInv m a0 a0 m 1 0) ∧
    (BezoutInv m a0 a b x y →
      BezoutInv m a0 a (halfStepA a b x y).1 x (halfStepA a b x y).2 ∧
      BezoutInv m a0 (halfStepB a b x y).1 b (halfStepB a b x y).2 y ∧
      (a ≠ 0 → (halfStepA a b x y).1 = b % a) ∧
      (b ≠ 0 → (halfStepB a b x y).1 = a % b))

/-- R131, R132: ISPRIME accepts every word and writes 1 when the word is a table prime or no table prime
divides it, else 0; nothing else but STATUS changes. -/
def Obligations.IsprimeCompletes : Prop :=
  decode 0x00000003#32 = .ok .isprime ∧
  ∀ s : State,
    exec .isprime s = .next
      { s with
        r0 := if s.a0.toInt ∈ primeRom ∨ (∀ q ∈ primeRom, ¬ q ∣ s.a0.toInt) then 1#32 else 0#32
        status := doneStatus s.status }

/-- R133: from 2 up to ORACLE_EXACT_LIMIT, ISPRIME gives 1 exactly on the primes and 0 elsewhere. -/
def Obligations.IsprimeExactBelowTheOracleLimit : Prop :=
  ∀ s : State, 2 ≤ s.a0.toInt → s.a0.toInt < 49729 →
    ∃ t, exec .isprime s = .next t ∧
      (t.r0 = 1#32 ↔ Nat.Prime s.a0.toInt.toNat) ∧ (t.r0 = 0#32 ↔ ¬ Nat.Prime s.a0.toInt.toNat)

/-- R134, R135: NEXTPRIME accepts every word, always ends, and writes the first word after its operand, in
wrapping order, that `is_prime` accepts; nothing else but STATUS changes. -/
def Obligations.NextprimeCompletes : Prop :=
  decode 0x00000004#32 = .ok .nextprime ∧
  ∀ s : State, ∃ t, exec .nextprime s = .next t ∧
    t = { s with r0 := t.r0, status := doneStatus s.status } ∧
    ∃ k : Nat, 1 ≤ k ∧ k ≤ 2 ^ 32 ∧ t.r0.toInt = wrap32 (s.a0.toInt + k) ∧
      isPrime (wrap32 (s.a0.toInt + k)) = true ∧
      ∀ j : Nat, 1 ≤ j → j < k → isPrime (wrap32 (s.a0.toInt + j)) = false

/-- R134: from 1 up to below 49727, NEXTPRIME gives the smallest prime above its operand. -/
def Obligations.NextprimeIsTheSmallestPrimeAbove : Prop :=
  ∀ s : State, 1 ≤ s.a0.toInt → s.a0.toInt < 49727 →
    ∃ t, exec .nextprime s = .next t ∧
      Nat.Prime t.r0.toInt.toNat ∧ s.a0.toInt < t.r0.toInt ∧
      ∀ q : Nat, Nat.Prime q → s.a0.toInt < q → t.r0.toInt ≤ q

/-- R136, R137: PPTBUILD refuses a base below 2, and otherwise writes the powers of its operand up to
PP_CEIL, their count to PPT_LEN and R0, and STATUS; entries at or above the length, and every other
register, keep their values. -/
def Obligations.PptbuildCompletes : Prop :=
  decode 0x00000005#32 = .ok .pptbuild ∧
  ∀ s : State,
    (s.a0.toInt < 2 → exec .pptbuild s = .next { s with status := 0x80000002#32 }) ∧
    (2 ≤ s.a0.toInt →
      ∃ t, exec .pptbuild s = .next t ∧
        t = { s with r0 := t.pptLen, pptLen := t.pptLen, ppt := t.ppt,
                     status := doneStatus s.status } ∧
        t.pptLen.toInt = 1 + Nat.log s.a0.toInt.toNat 46340 ∧
        t.TableOf s.a0.toInt ∧
        ∀ j : Fin 16, t.pptLen.toInt ≤ (j.val : Int) → t.ppt[j] = s.ppt[j])

/-- R138, R139: PPTEXTRACT accepts every word with any table; it writes the pair of `ppt_extract`, whole,
to R0 and R1, and STATUS, and nothing else. -/
def Obligations.PptextractCompletes : Prop :=
  decode 0x00000006#32 = .ok .pptextract ∧
  ∀ s : State, ∃ t, exec .pptextract s = .next t ∧
    t = { s with r0 := t.r0, r1 := t.r1, status := doneStatus s.status } ∧
    t.r0.toInt = (pptExtract s.ppt s.pptLen.toInt s.a0.toInt).1 ∧
    t.r1.toInt = (pptExtract s.ppt s.pptLen.toInt s.a0.toInt).2

/-- R138: with the table of any base, PPTEXTRACT divides by the highest entry above index 0 that divides
the operand, and leaves it as it is when none does; with an empty table nothing is tested. -/
def Obligations.PptextractRemovesTheHighestEntry : Prop :=
  ∀ s : State,
    (s.pptLen = 0 → ∃ t, exec .pptextract s = .next t ∧ t.r0 = s.a0 ∧ t.r1 = 0) ∧
    (∀ p : Int, s.TableOf p →
      ∃ (t : State) (j : Nat), exec .pptextract s = .next t ∧ t.r1.toInt = j ∧
        (j : Int) < s.pptLen.toInt ∧ t.r0.toInt * p ^ j = s.a0.toInt ∧
        ∀ i : Nat, j < i → (i : Int) < s.pptLen.toInt → ¬ p ^ i ∣ s.a0.toInt)

/-- R138, the contract: with the table of a prime and a positive operand the index removed is the
multiplicity, capped at the last index; the reduced value is prime to the base exactly when the next power
does not divide the operand, and that is certain up to PP_CEIL. -/
def Obligations.PptextractRemovesTheMultiplicity : Prop :=
  ∀ (s : State) (p : Nat), Nat.Prime p → s.TableOf p → 1 ≤ s.a0.toInt →
    ∃ t, exec .pptextract s = .next t ∧
      t.r0.toInt * (p : Int) ^ t.r1.toInt.toNat = s.a0.toInt ∧
      t.r1.toInt = min (padicValNat p s.a0.toInt.toNat : Int) (s.pptLen.toInt - 1) ∧
      (¬ (p : Int) ∣ t.r0.toInt ↔ ¬ ((p : Int) ^ s.pptLen.toInt.toNat ∣ s.a0.toInt)) ∧
      (¬ ((p : Int) ^ s.pptLen.toInt.toNat ∣ s.a0.toInt) ↔
        t.r1.toInt = padicValNat p s.a0.toInt.toNat) ∧
      (s.a0.toInt ≤ Config.ppCeil → ¬ ((p : Int) ^ s.pptLen.toInt.toNat ∣ s.a0.toInt))

/-- R155, R152, R27: ACCADD refuses a denominator below 1, and otherwise writes the pair of `acc_add`,
whole and with both limbs in [0, 10⁹) for every operand in or out of domain, to the accumulator and to
R0, R1, and STATUS, and nothing else. -/
def Obligations.AccaddCompletes : Prop :=
  decode 0x00000007#32 = .ok .accadd ∧
  ∀ s : State,
    (s.a1.toInt ≤ 0 → exec .accadd s = .next { s with status := 0x80000002#32 }) ∧
    (0 < s.a1.toInt →
      ∃ t, exec .accadd s = .next t ∧
        t = { s with accHi := t.accHi, accLo := t.accLo, r0 := t.accHi, r1 := t.accLo,
                     status := doneStatus s.status } ∧
        (t.accHi.toInt, t.accLo.toInt) =
          accAdd s.a0.toInt s.a1.toInt s.accHi.toInt s.accLo.toInt ∧
        t.LimbsOk)

/-- R153, R154, R158: in-domain, on the direct path and on the rescaled one, ACCADD adds the fraction
truncated at the 18th decimal place, modulo 1. -/
def Obligations.AccaddAddsTheFractionExactly : Prop :=
  ∀ s : State, s.LimbsOk → AccDomain s.a0.toInt s.a1.toInt →
    ∃ t, exec .accadd s = .next t ∧
      accVal t.accHi.toInt t.accLo.toInt =
        (accVal s.accHi.toInt s.accLo.toInt + s.a0.toInt * 10 ^ 18 / s.a1.toInt) % 10 ^ 18

/-- R157: adding a set of in-domain fractions in any order yields the same pair. -/
def Obligations.AccumulationIsOrderIndependent : Prop :=
  ∀ (l₁ l₂ : List (Int × Int)) (hi lo : Int), l₁.Perm l₂ →
    (∀ f ∈ l₁, AccDomain f.1 f.2) → LimbPair hi lo →
    l₁.foldl (fun acc f => accAdd f.1 f.2 acc.1 acc.2) (hi, lo) =
      l₂.foldl (fun acc f => accAdd f.1 f.2 acc.1 acc.2) (hi, lo)

/-- R151: on its domain the split long division gives quotient and remainder of n·10⁹ by d exactly. -/
def Obligations.SplitLongDivisionIsExact : Prop :=
  ∀ n d : Int, 1 ≤ d → d ≤ 67108 → 0 ≤ n → n ≤ d →
    muldiv1e9 n d = (n * 10 ^ 9 / d, n * 10 ^ 9 % d)

/-- R156: ACCCLR clears the accumulator and R0, R1, and completes. -/
def Obligations.AccclrCompletes : Prop :=
  decode 0x00000008#32 = .ok .accclr ∧
  ∀ s : State, exec .accclr s = .next
    { s with accHi := 0, accLo := 0, r0 := 0, r1 := 0,
             status := (s.status &&& 0x80000000#32) ||| 0x00000010#32 }

/-- R170, R178, R182: DIGIT9 with an accepted index completes: the nine digits, a value in
[0, 999999999], are the final ACC_HI; R1 is the term count of R171; accumulator and table are left as
`digit9` ends, and every other register but STATUS keeps its value. -/
def Obligations.Digit9Completes : Prop :=
  ∀ s : State, IndexOk s.a0.toInt →
    ∃ t, exec .digit9 s = .next t ∧
      t = { s with r0 := t.accHi, r1 := t.r1, accHi := t.accHi, accLo := t.accLo,
                   ppt := t.ppt, pptLen := t.pptLen, status := t.status } ∧
      0 ≤ t.r0.toInt ∧ t.r0.toInt ≤ 999999999 ∧ t.LimbsOk ∧
      t.r1.toInt = ((s.a0.toInt + 19) * 100) / 113 ∧
      t.accHi.toInt = (digit9 s.a0.toInt s.ppt).hi ∧ t.accLo.toInt = (digit9 s.a0.toInt s.ppt).lo ∧
      t.ppt = (digit9 s.a0.toInt s.ppt).table ∧ t.pptLen.toInt = (digit9 s.a0.toInt s.ppt).len ∧
      t.status = if (digit9 s.a0.toInt s.ppt).skipped then skippedStatus s.status
        else doneStatus s.status

/-- R170, R218, R219: DIGIT9 refuses a negative index with InvalidInput and an index above 17436 with
OutOfRange, and then changes STATUS only. -/
def Obligations.Digit9RefusesOtherIndices : Prop :=
  ∀ s : State,
    (s.a0.toInt < 0 → exec .digit9 s = .next { s with status := 0x80000002#32 }) ∧
    (17436 < s.a0.toInt → exec .digit9 s = .next { s with status := 0x80000003#32 })

/-- R182: a completed DIGIT9 leaves the table of the largest prime not above 3·N, of length 2 or 3. -/
def Obligations.Digit9LeavesTheTableOfTheLastPrime : Prop :=
  ∀ s : State, IndexOk s.a0.toInt →
    ∃ (t : State) (p : Nat), exec .digit9 s = .next t ∧
      Nat.Prime p ∧ (p : Int) ≤ 3 * termCount s.a0.toInt ∧
      (∀ q : Nat, Nat.Prime q → (q : Int) ≤ 3 * termCount s.a0.toInt → q ≤ p) ∧
      t.TableOf p ∧ (t.pptLen = 2 ∨ t.pptLen = 3)

/-- R174: DIGIT9 reports SKIP2 exactly from index 216 upward. -/
def Obligations.Digit9SkipsTheFactorTwoFrom216 : Prop :=
  ∀ s : State, IndexOk s.a0.toInt →
    ∃ t, exec .digit9 s = .next t ∧
      (statusSkip2 t.status = true ↔ 216 ≤ s.a0.toInt) ∧ statusDone t.status = true

/-- R33: DIGIT9 depends on its index alone: from any two states with the same index it gives the same
results, accumulator and table, all sixteen entries. -/
def Obligations.Digit9DependsOnTheIndexAlone : Prop :=
  ∀ s₁ s₂ : State, s₁.a0 = s₂.a0 → IndexOk s₁.a0.toInt →
    ∃ t₁ t₂ : State, exec .digit9 s₁ = .next t₁ ∧ exec .digit9 s₂ = .next t₂ ∧
      t₁.r0 = t₂.r0 ∧ t₁.r1 = t₂.r1 ∧ t₁.accHi = t₂.accHi ∧ t₁.accLo = t₂.accLo ∧
      t₁.ppt = t₂.ppt ∧ t₁.pptLen = t₂.pptLen ∧
      statusSkip2 t₁.status = statusSkip2 t₂.status

/-- R171, R218: N from the index, and INDEX_MAX is the largest index with 3·N not above PP_CEIL. -/
def Obligations.TermCountAndIndexMax : Prop :=
  ∀ index : Int, 0 ≤ index → index ≤ maxWord →
    termCount index = ((index + 19) * 100) / 113 ∧ 16 ≤ termCount index ∧
    (3 * termCount index ≤ Config.ppCeil ↔ index ≤ 17436)

/-- R181: for every accepted index and prime, whenever a term is added the exponent E + V is at least 0 and
below E, so the power formed is a table entry below PPT_LEN or a shift below E ≤ 22, and DEN is prime to
the modulus. -/
def Obligations.Digit9ExponentsStayInRange : Prop :=
  ∀ (index : Int) (p : Nat) (t : Table) (u : PrimeSetup) (k : Nat), IndexOk index →
    Nat.Prime p → (p : Int) ≤ 3 * termCount index →
    primeSetup (pptBuild p t).1 (pptBuild p t).2 p (termCount index) index = some u →
    (k : Int) ≤ termCount index →
    u.m = (p : Int) ^ u.e.toNat ∧ 1 ≤ u.e ∧
    (p = 2 → u.e ≤ 22) ∧ (p ≠ 2 → u.e = ((pptBuild p t).2 : Int) - 1) ∧
    Int.gcd (termLoop (pptBuild p t).1 (pptBuild p t).2 p u.e u.m k 1 (startTerms u.v)).den u.m = 1 ∧
    ((termLoop (pptBuild p t).1 (pptBuild p t).2 p u.e u.m k 1 (startTerms u.v)).v < 0 →
      0 ≤ u.e + (termLoop (pptBuild p t).1 (pptBuild p t).2 p u.e u.m k 1 (startTerms u.v)).v)

/-- R181: every inversion DIGIT9 performs is exact, modulo the prime powers and modulo the powers of two up
to 2^22: whenever a term is added, DEN times its inverse is 1 modulo M. -/
def Obligations.Digit9InversionsAreExact : Prop :=
  ∀ (index : Int) (p : Nat) (t : Table) (u : PrimeSetup) (k : Nat), IndexOk index →
    Nat.Prime p → (p : Int) ≤ 3 * termCount index →
    primeSetup (pptBuild p t).1 (pptBuild p t).2 p (termCount index) index = some u →
    (k : Int) ≤ termCount index →
    (termLoop (pptBuild p t).1 (pptBuild p t).2 p u.e u.m k 1 (startTerms u.v)).v < 0 →
    ((termLoop (pptBuild p t).1 (pptBuild p t).2 p u.e u.m k 1 (startTerms u.v)).den *
      invMod (termLoop (pptBuild p t).1 (pptBuild p t).2 p u.e u.m k 1 (startTerms u.v)).den u.m) %
      u.m = 1

/-- R173, R174, R175: the setup of each prime, whatever the table held before: 2 is skipped exactly when
⌊log₂ 3N⌋ + N - index is not positive; otherwise exponent, modulus, starting exponent and shift factor are
those of the rules. -/
def Obligations.Digit9SetsUpEachPrime : Prop :=
  ∀ (index : Int) (p : Nat) (t : Table), IndexOk index →
    Nat.Prime p → (p : Int) ≤ 3 * termCount index →
    (primeSetup (pptBuild p t).1 (pptBuild p t).2 p (termCount index) index = none ↔
      p = 2 ∧ (Nat.log 2 (3 * termCount index).toNat : Int) + termCount index - index ≤ 0) ∧
    ∀ u : PrimeSetup,
      primeSetup (pptBuild p t).1 (pptBuild p t).2 p (termCount index) index = some u →
      u.e = (if p = 2 then (Nat.log 2 (3 * termCount index).toNat : Int) + termCount index - index
        else Nat.log p 46340) ∧
      u.m = (p : Int) ^ u.e.toNat ∧
      u.v = (if p = 2 then index else 0) ∧
      u.shift = (if p = 2 then 5 else 10) ^ index.toNat % u.m

/-- R176, D16: after K terms NUM and DEN are, modulo M, the parts prime to P of the numerator and the
denominator of the product over j ≤ K of (2j)(2j-1)/((6j-4)(9j-3)), and V is its start plus the net
exponent of P; term K + 1 changes the subtotal only when V is then negative, and adds modulo M the T with
T·DEN = NUM·P^(E+V)·(50(K+1)-6). -/
def Obligations.Digit9TermsAreTheSeriesTerms : Prop :=
  ∀ (index : Int) (p : Nat) (t : Table) (u : PrimeSetup) (k : Nat) (w w' : TermState), IndexOk index →
    Nat.Prime p → (p : Int) ≤ 3 * termCount index →
    primeSetup (pptBuild p t).1 (pptBuild p t).2 p (termCount index) index = some u →
    (k : Int) ≤ termCount index →
    w = termLoop (pptBuild p t).1 (pptBuild p t).2 p u.e u.m k 1 (startTerms u.v) →
    w' = termLoop (pptBuild p t).1 (pptBuild p t).2 p u.e u.m (k + 1) 1 (startTerms u.v) →
    w.num = primeFree p (seriesNum k) % u.m ∧
    w.den = primeFree p (seriesDen k) % u.m ∧
    w.v = seriesExp p u.v k ∧
    0 ≤ w.sum ∧ w.sum < u.m ∧
    ((k : Int) < termCount index →
      (0 ≤ w'.v → w'.sum = w.sum) ∧
      (w'.v < 0 → ∃ T : Int, 0 ≤ T ∧ T < u.m ∧ w'.sum = (w.sum + T) % u.m ∧
        (T * w'.den) % u.m =
          (w'.num * (p : Int) ^ (u.e + w'.v).toNat * (50 * ((k : Int) + 1) - 6)) % u.m))

/-- R176, R181: the subtotal of a prime is, as a residue modulo M, the sum over the terms K ≤ N whose
running exponent is negative of (50K-6)·P^(E+V) times the prime-free part of the product of R176. -/
def Obligations.Digit9SubtotalsAreTheSeriesResidues : Prop :=
  ∀ (index : Int) (p : Nat) (t : Table) (u : PrimeSetup), IndexOk index →
    Nat.Prime p → (p : Int) ≤ 3 * termCount index →
    primeSetup (pptBuild p t).1 (pptBuild p t).2 p (termCount index) index = some u →
    0 ≤ termSum (pptBuild p t).1 (pptBuild p t).2 p u.e u.m u.v (termCount index) ∧
    termSum (pptBuild p t).1 (pptBuild p t).2 p u.e u.m u.v (termCount index) < u.m ∧
    ((termSum (pptBuild p t).1 (pptBuild p t).2 p u.e u.m u.v (termCount index) : Int) :
        ZMod u.m.toNat) =
      ∑ k ∈ (Finset.Icc 1 (termCount index).toNat).filter (fun k => seriesExp p u.v k < 0),
        (primeFree p (seriesNum k) : ZMod u.m.toNat) *
          (primeFree p (seriesDen k) : ZMod u.m.toNat)⁻¹ *
          (p : ZMod u.m.toNat) ^ (u.e + seriesExp p u.v k).toNat *
          ((50 * (k : Int) - 6 : Int) : ZMod u.m.toNat)

/-- R172, R177, R157: the accumulator DIGIT9 ends with is the sum, over every prime up to 3·N, of that
prime's fraction truncated at the 18th place, modulo 1. What the subtotal of a prime is, the statement
Digit9SubtotalsAreTheSeriesResidues says (R176). -/
def Obligations.Digit9SumsThePrimeFractions : Prop :=
  ∀ (index : Int) (t : Table), IndexOk index →
    accVal (digit9 index t).hi (digit9 index t).lo =
      (∑ p ∈ (Finset.range (3 * termCount index + 1).toNat).filter Nat.Prime,
        primeFraction index p) % 10 ^ 18

/-- R179, R172: the controller's transitions, run from INIT with any values in the other working registers,
come to IDLE with what `digit9` gives. The controller stands beside State (log entry 2), and the values the
model starts it with (log entry 15) do not matter. -/
def Obligations.SequencerComputesDigit9 : Prop :=
  ∀ q : Seq, q.phase = .init → IndexOk q.index →
    ∃ j : Nat, (seqRun j q).phase = .idle ∧
      (seqRun j q).digit = digit9 q.index q.digit.table ∧
      (seqRun j q).n = termCount q.index

/-- R179: every row of the table, under the row's condition: a DIGIT9 starts the controller in INIT; INIT
sets P = 2 and clears the sum (R172); PRIME_SETUP goes to TERM with K = 1, and to ADVANCE exactly when the
setup skips the prime, which is then 2; TERM repeats with K + 1 while K < N and then goes to FOLD; FOLD goes
to ADVANCE; ADVANCE takes the next prime, to PRIME_SETUP or FINISH by 3·N; FINISH goes to IDLE, which no
transition of its own leaves. The controller stands beside State (log entry 2). -/
def Obligations.SequencerFollowsTheTransitionTable : Prop :=
  (∀ (index : Int) (t : Table), (seqStart index t).phase = .init ∧
    (seqStart index t).index = index ∧ (seqStart index t).digit.table = t) ∧
  ∀ q : Seq,
    (seqStep q).index = q.index ∧
    (q.phase ≠ .idle → (q.phase, (seqStep q).phase) ∈ phaseTable) ∧
    (q.phase = .idle → seqStep q = q) ∧
    (q.phase = .init →
      (seqStep q).phase = .primeSetup ∧ (seqStep q).p = 2 ∧ (seqStep q).n = termCount q.index ∧
      (seqStep q).digit.hi = 0 ∧ (seqStep q).digit.lo = 0 ∧ (seqStep q).digit.skipped = false) ∧
    (q.phase = .primeSetup →
      ((seqStep q).phase = .advance ↔
        primeSetup (pptBuild q.p q.digit.table).1 (pptBuild q.p q.digit.table).2 q.p q.n q.index =
          none) ∧
      ((seqStep q).phase = .advance → q.p = 2 ∧ (seqStep q).digit.skipped = true) ∧
      ((seqStep q).phase ≠ .advance → (seqStep q).phase = .term ∧ (seqStep q).k = 1)) ∧
    (q.phase = .term →
      ((seqStep q).phase = .term ↔ q.k < q.n) ∧ (q.k < q.n → (seqStep q).k = q.k + 1) ∧
      (¬ q.k < q.n → (seqStep q).phase = .fold)) ∧
    (q.phase = .fold → (seqStep q).phase = .advance) ∧
    (q.phase = .advance →
      (seqStep q).p = nextPrime q.p ∧
      ((seqStep q).phase = .primeSetup ↔ nextPrime q.p ≤ 3 * q.n) ∧
      (¬ nextPrime q.p ≤ 3 * q.n → (seqStep q).phase = .finish)) ∧
    (q.phase = .finish → (seqStep q).phase = .idle)

/-! ### Arithmetic and bounds -/

/-- R94 facts 1 and 2: the modular multiplier is exact in the safe zone, and for a power-of-two modulus on
all words, overflow or not. -/
def Obligations.MulmodExactInSafeZoneAndForPowersOfTwo : Prop :=
  (∀ a b m : Int, 1 ≤ m → m ≤ maxWord → IsWord (a * b) → mulmod a b m = (a * b) % m) ∧
  (∀ (a b : Int) (e : Nat), e ≤ 30 → mulmod a b (2 ^ e) = (a * b) % 2 ^ e)

/-- R91: quotient and remainder of words by a word that is not 0. -/
def Obligations.TruncatedDivisionLaws : Prop :=
  ∀ a b : Int, IsWord a → IsWord b → b ≠ 0 →
    |remT a b| < |b| ∧ (0 ≤ a → 0 ≤ remT a b) ∧ (a ≤ 0 → remT a b ≤ 0) ∧
    (¬ (a = minWord ∧ b = -1) → a = b * divT a b + remT a b) ∧
    (a = minWord ∧ b = -1 → divT a b = minWord ∧ remT a b = 0)

/-- R114, R134, R183: no loop bound of the model is ever what ends a loop: with any larger bound
`pow_mod`, `next_prime` and the prime loop of DIGIT9 give the same. -/
def Obligations.LoopBoundsNeverDecide : Prop :=
  (∀ (m r a b : Int) (f : Nat), 0 ≤ b → b ≤ maxWord → 31 ≤ f →
    powModLoop m f r a b = powModLoop m 31 r a b) ∧
  (∀ (c : Int) (f : Nat), IsWord c → 2 ^ 32 ≤ f →
    nextPrimeFrom f c = nextPrimeFrom searchBound c) ∧
  (∀ (index : Int) (f : Nat) (d : DigitState), IndexOk index → (3 * termCount index).toNat ≤ f →
    primeLoop (termCount index) index f 2 d =
      primeLoop (termCount index) index (3 * termCount index).toNat 2 d)

/-! ### Causes, STATUS, and what commands may write -/

/-- R217, R218: a command raises InvalidInput exactly on the operands of the table of R217 and OutOfRange
exactly when DIGIT9 is given an index above INDEX_MAX, that is one with 3·N above PP_CEIL; no other
cause; and then only STATUS is written. -/
def Obligations.CausesExactlyAsTheOperandsSay : Prop :=
  ∀ (i : Instr) (s t : State), exec i s = .next t →
    (statusCause t.status = 2 ↔ InvalidOperands s i) ∧
    (statusCause t.status = 3 ↔ i = .digit9 ∧ 17436 < s.a0.toInt) ∧
    (0 ≤ s.a0.toInt → (17436 < s.a0.toInt ↔ Config.ppCeil < 3 * termCount s.a0.toInt)) ∧
    (statusCause t.status = 0 ∨ statusCause t.status = 2 ∨ statusCause t.status = 3) ∧
    (statusCause t.status ≠ 0 → t = { s with status := t.status })

/-- R220: when a write to CMD raises a cause, CMD holds the word, STATUS is FAULT and the code, and nothing
else changes; and FAULT stays 1 through every later command. -/
def Obligations.RaisedCauseChangesOnlyCmdAndStatus : Prop :=
  ∀ (w : Word) (s t : State), hostWrite cmdAddr w s = .next t →
    (statusCause t.status ≠ 0 →
      t = { s with cmd := w, status := t.status } ∧
      (t.status = 0x80000001#32 ∨ t.status = 0x80000002#32 ∨ t.status = 0x80000003#32)) ∧
    (statusFault s.status = true → statusFault t.status = true)

/-- R25, R240: FAULT once set stays set through every event but the reset event, which clears it; and no
event sets it but a command that raises a cause. -/
def Obligations.FaultIsClearedOnlyByReset : Prop :=
  ∀ s t : State, step s = .next t →
    ((∀ rest, s.pending ≠ .reset :: rest) → statusFault s.status = true →
      statusFault t.status = true) ∧
    (∀ rest, s.pending = .reset :: rest → statusFault t.status = false) ∧
    (statusFault s.status = false → statusFault t.status = true → statusCause t.status ≠ 0)

/-- R21, R26, R61: no command writes an operand register or CMD. The clauses on `pending` and `returned` are
about the model's own fields, no rule of the spec (log entry 1). -/
def Obligations.CommandsNeverWriteOperandsOrCmd : Prop :=
  ∀ (i : Instr) (s t : State), exec i s = .next t →
    t.a0 = s.a0 ∧ t.a1 = s.a1 ∧ t.a2 = s.a2 ∧ t.cmd = s.cmd ∧
    t.pending = s.pending ∧ t.returned = s.returned

/-- R22, R27, R28: each result, accumulator and table register is written only by the commands the spec
names for it. -/
def Obligations.OnlyTheNamedCommandsWriteEachRegister : Prop :=
  ∀ (i : Instr) (s t : State), exec i s = .next t →
    (i = .nop → t.r0 = s.r0) ∧
    (i ≠ .pptextract → i ≠ .accadd → i ≠ .accclr → i ≠ .digit9 → t.r1 = s.r1) ∧
    (i ≠ .accadd → i ≠ .accclr → i ≠ .digit9 → t.accHi = s.accHi ∧ t.accLo = s.accLo) ∧
    (i ≠ .pptbuild → i ≠ .digit9 → t.ppt = s.ppt ∧ t.pptLen = s.pptLen)

/-- R21: an unused operand register is not read: its value cannot change what the command does. -/
def Obligations.UnusedOperandsAreNotRead : Prop :=
  ∀ (i : Instr) (r : OperandReg) (v : Word) (s t : State), r ∉ operandsRead i →
    exec i s = .next t → exec i (withOperand s v r) = .next (withOperand t v r)

/-! ### The register space -/

/-- R51, R52, R55: what a read of each address returns. -/
def Obligations.RegisterMapReads : Prop :=
  ∀ s : State,
    readAddr s 0x00#7 = s.cmd ∧ readAddr s 0x01#7 = s.status ∧ readAddr s 0x02#7 = s.a0 ∧
    readAddr s 0x03#7 = s.a1 ∧ readAddr s 0x04#7 = s.a2 ∧ readAddr s 0x05#7 = s.r0 ∧
    readAddr s 0x06#7 = s.r1 ∧ readAddr s 0x07#7 = s.accHi ∧ readAddr s 0x08#7 = s.accLo ∧
    readAddr s 0x09#7 = s.pptLen ∧
    (∀ j : Fin 16, readAddr s (BitVec.ofNat 7 (0x10 + j.val)) = s.ppt[j]) ∧
    (∀ i : Fin 47, (readAddr s (BitVec.ofNat 7 (0x40 + i.val))).toNat = Nat.nth Nat.Prime i.val) ∧
    (∀ reg : RegName, readAddr s (addressOf reg) = readReg s reg)

/-- R55: a read of an unmapped address returns 0, a write to one is ignored, and neither raises a cause nor
changes STATUS. -/
def Obligations.UnmappedAddressesReadZeroAndIgnoreWrites : Prop :=
  ∀ (s : State) (addr : Address) (v : Word),
    ((0x0A ≤ addr.toNat ∧ addr.toNat ≤ 0x0F) ∨ (0x20 ≤ addr.toNat ∧ addr.toNat ≤ 0x3F) ∨
      (0x6F ≤ addr.toNat ∧ addr.toNat ≤ 0x7F)) →
    readAddr s addr = 0 ∧ hostWrite addr v s = .next s

/-- R53: a host write stores the whole word in an operand register, stores a word in CMD and executes it,
and is ignored at every read-only address. -/
def Obligations.HostWritesFollowTheMap : Prop :=
  ∀ (s : State) (v : Word),
    hostWrite 0x02#7 v s = .next { s with a0 := v } ∧
    hostWrite 0x03#7 v s = .next { s with a1 := v } ∧
    hostWrite 0x04#7 v s = .next { s with a2 := v } ∧
    hostWrite 0x00#7 v s = runCommand v { s with cmd := v } ∧
    (∀ addr : Address,
      (addr.toNat = 0x01 ∨ (0x05 ≤ addr.toNat ∧ addr.toNat ≤ 0x09) ∨
        (0x10 ≤ addr.toNat ∧ addr.toNat ≤ 0x1F) ∨ (0x40 ≤ addr.toNat ∧ addr.toNat ≤ 0x6E)) →
      hostWrite addr v s = .next s)

/-- R52, R53, R59: reading after storing gives the word stored at a writable address, and at every other
address what was there before. -/
def Obligations.RegisterSpaceReadAfterWrite : Prop :=
  ∀ (s : State) (a b : Address) (v : Word),
    readAddr (storeAddr s a v) b =
      if a = b ∧ (a = 0x00#7 ∨ a = 0x02#7 ∨ a = 0x03#7 ∨ a = 0x04#7) then v else readAddr s b

/-- R76: each pseudo-instruction is its writes and then its command: run as the next events, it leaves the
operands in the operand registers it names and is the command from there; CMDW writes any word to CMD,
which is then run or refused; and a bare mnemonic is its command (R75). The queue is the model's choice
(log entry 1). -/
def Obligations.PseudoInstructionsRunAsExpanded : Prop :=
  ∀ (s : State) (rest : List HostEvent) (x y z : Word),
    core.run 1 { s with pending := expandLine (.cmdw x) ++ rest } =
      runCommand x { s with cmd := x, pending := rest, returned := none } ∧
    (∀ i : Instr, core.run 1 { s with pending := expandLine (.bare i) ++ rest } =
      exec i { s with cmd := encode i, pending := rest, returned := none }) ∧
    core.run 4 { s with pending := expandLine (.powmod x y z) ++ rest } =
      exec .powmod { s with a0 := x, a1 := y, a2 := z, cmd := 1#32, pending := rest, returned := none } ∧
    core.run 3 { s with pending := expandLine (.invmod x y) ++ rest } =
      exec .invmod { s with a0 := x, a1 := y, cmd := 2#32, pending := rest, returned := none } ∧
    core.run 2 { s with pending := expandLine (.isprime x) ++ rest } =
      exec .isprime { s with a0 := x, cmd := 3#32, pending := rest, returned := none } ∧
    core.run 2 { s with pending := expandLine (.nextprime x) ++ rest } =
      exec .nextprime { s with a0 := x, cmd := 4#32, pending := rest, returned := none } ∧
    core.run 2 { s with pending := expandLine (.pptbuild x) ++ rest } =
      exec .pptbuild { s with a0 := x, cmd := 5#32, pending := rest, returned := none } ∧
    core.run 2 { s with pending := expandLine (.pptextract x) ++ rest } =
      exec .pptextract { s with a0 := x, cmd := 6#32, pending := rest, returned := none } ∧
    core.run 3 { s with pending := expandLine (.accadd x y) ++ rest } =
      exec .accadd { s with a0 := x, a1 := y, cmd := 7#32, pending := rest, returned := none } ∧
    core.run 2 { s with pending := expandLine (.digit9 x) ++ rest } =
      exec .digit9 { s with a0 := x, cmd := 9#32, pending := rest, returned := none }

/-- R56, R57, D21: word i of the space is at BASE + 4·i, and no other byte address of a platform reaches
the block; a platform read gives the word's four bytes, bits 7:0 at the lowest address, a platform write
puts them together in the same order; and four bytes so laid out stand for their word. BASE is open (log
entry 10). -/
def Obligations.PlatformBytesAreLittleEndian : Prop :=
  (∀ (n : Nat) (addr : Address), wordAddr n = some addr ↔ n = Config.base + 4 * addr.toNat) ∧
  (∀ (s : State) (addr : Address),
    platformRead s (Config.base + 4 * addr.toNat) =
      some [(readAddr s addr).extractLsb 7 0, (readAddr s addr).extractLsb 15 8,
        (readAddr s addr).extractLsb 23 16, (readAddr s addr).extractLsb 31 24]) ∧
  (∀ (addr : Address) (b0 b1 b2 b3 : Byte),
    platformWrite (Config.base + 4 * addr.toNat) b0 b1 b2 b3 =
      some (.write addr (b3 ++ b2 ++ b1 ++ b0))) ∧
  (∀ (w : Word) (rest : List Byte),
    wordOfBytes (w.extractLsb 7 0 :: w.extractLsb 15 8 :: w.extractLsb 23 16 :: w.extractLsb 31 24 ::
      rest) = some (w, rest))

/-! ### Reset and the invariant -/

/-- R32, R240: the reset event puts every register at 0 and executes no command. That what the host has
still to present stays is the model's choice (log entry 1). -/
def Obligations.ResetPutsEveryRegisterAtZero : Prop :=
  ∀ (s : State) (rest : List HostEvent), s.pending = .reset :: rest →
    ∃ t, step s = .next t ∧
      t.a0 = 0 ∧ t.a1 = 0 ∧ t.a2 = 0 ∧ t.r0 = 0 ∧ t.r1 = 0 ∧ t.cmd = 0 ∧ t.status = 0 ∧
      t.accHi = 0 ∧ t.accLo = 0 ∧ t.pptLen = 0 ∧ (∀ j : Fin 16, t.ppt[j] = 0) ∧ t.pending = rest

/-- R241: the reset state satisfies every invariant of the state. -/
def Obligations.ResetMeetsTheInvariant : Prop :=
  State.reset.Inv

/-- R25, R27, R28: every step, whatever the host presents, keeps both limbs in [0, 10⁹), the table a table
of powers with its length, and STATUS a word the block can have written. -/
def Obligations.EveryStepKeepsTheInvariant : Prop :=
  ∀ s t : State, s.Inv → step s = .next t → t.Inv
end

