-- ==== Sys2Proof/Laws/Arith.lean ====
section
/-! SUPPORT. The small lemmas of the arithmetic primitives (R90 to R95): what each does, once. -/

namespace Sys2Proof.Machine

/-! ### Words -/

/-- A register's signed value is a word (R8, R20). -/
theorem isWord_toInt (w : Word) : IsWord w.toInt := by
  have h1 := BitVec.two_mul_toInt_lt (x := w)
  have h2 := BitVec.le_two_mul_toInt (x := w)
  constructor <;> simp only [minWord, maxWord] <;> omega

/-- A word written to a register reads back as itself (R9). -/
theorem toInt_toWord {z : Int} (h : IsWord z) : (toWord z).toInt = z := by
  have h1 : -2147483648 ≤ z := h.1
  have h2 : z ≤ 2147483647 := h.2
  simp only [toWord, BitVec.toInt_ofInt]
  exact Int.bmod_eq_of_le (by omega) (by omega)

/-- Writing back what a register holds changes nothing. -/
@[simp] theorem toWord_toInt (w : Word) : toWord w.toInt = w := by
  simp [toWord]

/-- `wrap32` always gives a word (R90). -/
theorem wrap32_isWord (z : Int) : IsWord (wrap32 z) := by
  have h1 : -2147483648 ≤ wrap32 z := Int.le_bmod (x := z) (m := 2 ^ 32) (by decide)
  have h2 : wrap32 z < 2147483648 := Int.bmod_lt (x := z) (m := 2 ^ 32) (by decide)
  constructor <;> simp only [minWord, maxWord] <;> omega

/-- `wrap32` is the identity on words (R90). -/
theorem wrap32_of_isWord {z : Int} (h : IsWord z) : wrap32 z = z := by
  have h1 : -2147483648 ≤ z := h.1
  have h2 : z ≤ 2147483647 := h.2
  exact Int.bmod_eq_of_le (by omega) (by omega)

/-- `wrap32` changes a value by a multiple of 2^32 (R90). -/
theorem wrap32_emod (z : Int) : wrap32 z % 2 ^ 32 = z % 2 ^ 32 := by
  simp only [wrap32]
  exact_mod_cast Int.bmod_emod (x := z) (m := 2 ^ 32)

/-! ### Quotient and remainder -/

/-- `divT` by a divisor that is not 0 (R91). -/
theorem divT_of_ne {a b : Int} (h : b ≠ 0) : divT a b = wrap32 (a.tdiv b) := by
  simp [divT, h]

/-- `remT` by a divisor that is not 0 (R91). -/
theorem remT_of_ne {a b : Int} (h : b ≠ 0) : remT a b = a.tmod b := by
  simp [remT, h]

/-- `divT` always gives a word (R91). -/
theorem divT_isWord (a b : Int) : IsWord (divT a b) := by
  unfold divT
  split
  · exact isWord_toInt _
  · exact wrap32_isWord _

/-- On a dividend at least 0 and a divisor above 0, `remT` is the floor remainder (R91). -/
theorem remT_of_nonneg {a b : Int} (ha : 0 ≤ a) (hb : 0 < b) : remT a b = a % b := by
  rw [remT_of_ne (by omega), Int.tmod_eq_emod_of_nonneg ha]

/-- On a word at least 0 and a divisor above 0, `divT` is floor division (R91). -/
theorem divT_of_nonneg {a b : Int} (ha : 0 ≤ a) (ha' : a ≤ maxWord) (hb : 0 < b) :
    divT a b = a / b := by
  rw [divT_of_ne (by omega), Int.tdiv_eq_ediv_of_nonneg ha]
  have h1 : 0 ≤ a / b := Int.ediv_nonneg ha (by omega)
  have h2 : a / b ≤ a := Int.ediv_le_self b ha
  exact wrap32_of_isWord ⟨by simp only [minWord]; omega, by omega⟩

/-! ### The least non-negative residue -/

/-- `smod` is the least non-negative residue (R93). -/
theorem smod_eq_emod {z m : Int} (h : 1 ≤ m) : smod z m = z % m := by
  have hm : remT z m = z.tmod m := remT_of_ne (by omega)
  have h0 := Int.emod_nonneg z (show m ≠ 0 by omega)
  have h1 := Int.emod_lt_of_pos z (show 0 < m by omega)
  have ht := Int.tmod_eq_emod (a := z) (b := m)
  simp only [smod, hm]
  split at ht <;> split <;> omega

/-- `smod` is at least 0 (R93). -/
theorem smod_nonneg {z m : Int} (h : 1 ≤ m) : 0 ≤ smod z m := by
  rw [smod_eq_emod h]; exact Int.emod_nonneg z (by omega)

/-- `smod` is below the modulus (R93). -/
theorem smod_lt {z m : Int} (h : 1 ≤ m) : smod z m < m := by
  rw [smod_eq_emod h]; exact Int.emod_lt_of_pos z (by omega)

/-- `mulmod` is the residue of the wrapped product (R94). -/
theorem mulmod_eq {a b m : Int} (h : 1 ≤ m) : mulmod a b m = wrap32 (a * b) % m :=
  smod_eq_emod h

/-- `mulmod` is at least 0 (R94). -/
theorem mulmod_nonneg {a b m : Int} (h : 1 ≤ m) : 0 ≤ mulmod a b m := smod_nonneg h

/-- `mulmod` is below the modulus (R94). -/
theorem mulmod_lt {a b m : Int} (h : 1 ≤ m) : mulmod a b m < m := smod_lt h

/-- `1 << e` within the word (R95). -/
theorem shiftOne_of_le {e : Int} (h0 : 0 ≤ e) (h1 : e ≤ 30) : shiftOne e = 2 ^ e.toNat := by
  simp [shiftOne, h0, h1]

end Sys2Proof.Machine
end

