-- ==== Sys2Proof/Laws/Ops.lean ====
section
/-! SUPPORT. What each shared operation can do, said once: STATUS, the register space, the table, and the
step. -/

namespace Sys2Proof.Machine

/-! ### The widths and counts of R7 -/

theorem word_eq_bitVec_xlen : Word = BitVec Config.xlen := rfl

theorem primeRom_length : primeRom.length = Config.primeRomLen := rfl

/-! ### STATUS -/

@[simp] theorem statusCause_packStatus (c : Cause) (d k f : Bool) :
    statusCause (packStatus c d k f) = causeCode c := by
  cases c <;> cases d <;> cases k <;> cases f <;> decide

@[simp] theorem statusDone_packStatus (c : Cause) (d k f : Bool) :
    statusDone (packStatus c d k f) = d := by
  cases c <;> cases d <;> cases k <;> cases f <;> decide

@[simp] theorem statusSkip2_packStatus (c : Cause) (d k f : Bool) :
    statusSkip2 (packStatus c d k f) = k := by
  cases c <;> cases d <;> cases k <;> cases f <;> decide

@[simp] theorem statusFault_packStatus (c : Cause) (d k f : Bool) :
    statusFault (packStatus c d k f) = f := by
  cases c <;> cases d <;> cases k <;> cases f <;> decide

@[simp] theorem statusReserved_packStatus (c : Cause) (d k f : Bool) :
    statusReserved (packStatus c d k f) = 0 := by
  cases c <;> cases d <;> cases k <;> cases f <;> decide

/-- Keeping FAULT alone of a word (R25). -/
theorem faultBit_eq (w : Word) :
    w &&& 0x80000000#32 = if statusFault w then 0x80000000#32 else 0#32 :=
  BitVec.and_twoPow w 31

/-- STATUS after a completed command: FAULT kept and DONE (R25). -/
theorem statusCompleted_false (w : Word) :
    statusCompleted w false = (w &&& 0x80000000#32) ||| 0x00000010#32 := by
  rw [faultBit_eq, statusCompleted]
  cases statusFault w <;> decide

/-- STATUS after a completed DIGIT9 that skipped the prime 2: FAULT kept, DONE and SKIP2 (R25). -/
theorem statusCompleted_true (w : Word) :
    statusCompleted w true = (w &&& 0x80000000#32) ||| 0x00000030#32 := by
  rw [faultBit_eq, statusCompleted]
  cases statusFault w <;> decide

/-- STATUS after a raised cause, as words (R220). -/
theorem statusRaised_illegalCommand : statusRaised .illegalCommand = 0x80000001#32 := by decide

theorem statusRaised_invalidInput : statusRaised .invalidInput = 0x80000002#32 := by decide

theorem statusRaised_outOfRange : statusRaised .outOfRange = 0x80000003#32 := by decide

/-! ### Decoding -/

/-- The opcode map gives a command only at that command's opcode (R71). -/
theorem opcodeOf_opcodeMap {op : BitVec 8} {i : Instr} (h : opcodeMap op = some i) :
    opcodeOf i = op := by
  revert h; revert i; revert op; decide +kernel

/-! ### The register space -/

/-- The map gives back the register whose address it is asked for (R51). -/
@[simp] theorem regAt_addressOf (r : RegName) : regAt (addressOf r) = some r := by
  cases r with
  | ppt j => revert j; decide
  | primeRom i => revert i; decide
  | _ => decide

/-- An address the map gives a register to is that register's address (R51). -/
theorem addressOf_regAt {addr : Address} {r : RegName} (h : regAt addr = some r) :
    addressOf r = addr := by
  revert h; revert r; revert addr; decide +kernel

/-- All that storing a word can do (R53, R55). -/
theorem storeAddr_cases (s : State) (addr : Address) (v : Word) :
    (addr = addressOf .cmd ∧ storeAddr s addr v = { s with cmd := v }) ∨
    (addr = addressOf .a0 ∧ storeAddr s addr v = { s with a0 := v }) ∨
    (addr = addressOf .a1 ∧ storeAddr s addr v = { s with a1 := v }) ∨
    (addr = addressOf .a2 ∧ storeAddr s addr v = { s with a2 := v }) ∨
    storeAddr s addr v = s := by
  unfold storeAddr
  split
  · next h => exact .inl ⟨(addressOf_regAt h).symm, rfl⟩
  · next h => exact .inr (.inl ⟨(addressOf_regAt h).symm, rfl⟩)
  · next h => exact .inr (.inr (.inl ⟨(addressOf_regAt h).symm, rfl⟩))
  · next h => exact .inr (.inr (.inr (.inl ⟨(addressOf_regAt h).symm, rfl⟩)))
  · exact .inr (.inr (.inr (.inr rfl)))
  · exact .inr (.inr (.inr (.inr rfl)))

/-! ### The table -/

/-- A table entry read at an index of the table (R28). -/
theorem entryAt_of_lt (t : Table) {j : Nat} (h : j < 16) : entryAt t j = t[j].toInt := by
  simp [entryAt, h]

/-- Setting an entry, read back entry by entry (R136). -/
theorem setEntry_getElem (t : Table) (j : Nat) (w : Int) {i : Nat} (h : i < 16) :
    (setEntry t j w)[i] = if j = i then toWord w else t[i] := by
  simp only [setEntry, Vector.getElem_setIfInBounds]

/-- All that the scan of the table can answer (R138): the operand as it is with index 0, or the quotient by
an entry above index 0 that leaves no remainder, no higher entry of the scan doing so. -/
theorem extractFrom_cases (t : Table) (n : Int) (top : Nat) :
    (extractFrom t n top = (n, 0) ∧ ∀ i : Nat, 1 ≤ i → i ≤ top → remT n (entryAt t i) ≠ 0) ∨
    ∃ j : Nat, 1 ≤ j ∧ j ≤ top ∧ extractFrom t n top = (divT n (entryAt t j), j) ∧
      remT n (entryAt t j) = 0 ∧ ∀ i : Nat, j < i → i ≤ top → remT n (entryAt t i) ≠ 0 := by
  induction top with
  | zero => exact .inl ⟨rfl, fun i h1 h2 => absurd h1 (by omega)⟩
  | succ top ih =>
    unfold extractFrom
    by_cases h : remT n (entryAt t (top + 1 : Nat)) = 0
    · refine .inr ⟨top + 1, by omega, le_refl _, ?_, h, fun i h1 h2 => absurd h1 (by omega)⟩
      simp only [h, if_true]
    · have last : ∀ i, i ≤ top + 1 → ¬ i ≤ top → remT n (entryAt t i) ≠ 0 := by
        intro i h1 h2
        rwa [show i = top + 1 by omega]
      simp only [h, if_false]
      rcases ih with ⟨e, hi⟩ | ⟨j, h1, h2, e, hj, hi⟩
      · refine .inl ⟨e, fun i h1 h2 => ?_⟩
        by_cases h3 : i ≤ top
        · exact hi i h1 h3
        · exact last i h2 h3
      · refine .inr ⟨j, h1, by omega, e, hj, fun i h3 h4 => ?_⟩
        by_cases h5 : i ≤ top
        · exact hi i h3 h5
        · exact last i h4 h5

/-! ### The step -/

/-- All that a word written to CMD can do once it is stored (R54): a command runs, or IllegalCommand is
raised. -/
theorem runCommand_cases (w : Word) (s : State) :
    (∃ i, decode w = .ok i ∧ runCommand w s = exec i s) ∨
    (∃ e, decode w = .error e ∧ runCommand w s = .next (raiseCause .illegalCommand s)) := by
  unfold runCommand
  split
  · next i h => exact .inl ⟨i, h, rfl⟩
  · next e h => exact .inr ⟨e, h, rfl⟩

end Sys2Proof.Machine
end

