-- ==== Sys2Proof/Laws/PerInstr.lean ====
section
/-! SUPPORT. Facts about each command as syntax, one lemma per constructor of `Instr`. -/

namespace Sys2Proof.Laws

/-- The command word of a command has its reserved field 0 and an opcode of at most 9, so the
well-formedness check of words accepts it, and the command itself is well formed (R70, R71). -/
def WordShape.Statement (i : Instr) : Prop :=
  reservedField (encode i) = 0 ∧ opcodeField (encode i) = opcodeOf i ∧
  commandWordWf (encode i) = true ∧ i.wf = true

theorem WordShape.nop : WordShape.Statement .nop := by unfold WordShape.Statement; decide
theorem WordShape.powmod : WordShape.Statement .powmod := by unfold WordShape.Statement; decide
theorem WordShape.invmod : WordShape.Statement .invmod := by unfold WordShape.Statement; decide
theorem WordShape.isprime : WordShape.Statement .isprime := by unfold WordShape.Statement; decide
theorem WordShape.nextprime : WordShape.Statement .nextprime := by unfold WordShape.Statement; decide
theorem WordShape.pptbuild : WordShape.Statement .pptbuild := by unfold WordShape.Statement; decide
theorem WordShape.pptextract : WordShape.Statement .pptextract := by
  unfold WordShape.Statement; decide
theorem WordShape.accadd : WordShape.Statement .accadd := by unfold WordShape.Statement; decide
theorem WordShape.accclr : WordShape.Statement .accclr := by unfold WordShape.Statement; decide
theorem WordShape.digit9 : WordShape.Statement .digit9 := by unfold WordShape.Statement; decide

end Sys2Proof.Laws
end

