-- ==== Sys2Proof/Laws/Series.lean ====
section
/-! SUPPORT. The small lemmas of the product of R176 and of the loop that computes it: how each grows by
one term. -/

namespace Sys2Proof.Machine

@[simp] theorem seriesNum_zero : seriesNum 0 = 1 := rfl
@[simp] theorem seriesDen_zero : seriesDen 0 = 1 := rfl

theorem seriesNum_succ (k : Nat) :
    seriesNum (k + 1) = seriesNum k * ((2 * (k + 1)) * (2 * (k + 1) - 1)) :=
  Finset.prod_Icc_succ_top (by omega) _

theorem seriesDen_succ (k : Nat) :
    seriesDen (k + 1) = seriesDen k * ((6 * (k + 1) - 4) * (9 * (k + 1) - 3)) :=
  Finset.prod_Icc_succ_top (by omega) _

theorem seriesNum_pos (k : Nat) : 0 < seriesNum k :=
  Finset.prod_pos fun j hj => by
    have := (Finset.mem_Icc.mp hj).1
    exact Nat.mul_pos (by omega) (by omega)

theorem seriesDen_pos (k : Nat) : 0 < seriesDen k :=
  Finset.prod_pos fun j hj => by
    have := (Finset.mem_Icc.mp hj).1
    exact Nat.mul_pos (by omega) (by omega)

@[simp] theorem primeFree_one (p : Nat) : primeFree p 1 = 1 := by simp [primeFree]

/-- The part prime to `p`, times the power of `p` divided out, is the number. -/
theorem primeFree_mul_pow (p n : Nat) : primeFree p n * p ^ padicValNat p n = n :=
  Nat.div_mul_cancel pow_padicValNat_dvd

/-- The part prime to a prime of a product is the product of the parts. -/
theorem primeFree_mul {p : Nat} (hp : Nat.Prime p) {a b : Nat} (ha : a ≠ 0) (hb : b ≠ 0) :
    primeFree p (a * b) = primeFree p a * primeFree p b := by
  have := Fact.mk hp
  unfold primeFree
  rw [padicValNat.mul ha hb, pow_add,
    Nat.mul_div_mul_comm pow_padicValNat_dvd pow_padicValNat_dvd]

@[simp] theorem seriesExp_zero (p : Nat) (v₀ : Int) : seriesExp p v₀ 0 = v₀ := by simp [seriesExp]

/-- One term more at the end of the term loop is one term step more. -/
theorem termLoop_succ (t : Table) (len : Nat) (p e m : Int) (left : Nat) (k : Int) (w : TermState) :
    termLoop t len p e m (left + 1) k w =
      termStep t len p e m (k + left) (termLoop t len p e m left k w) := by
  induction left generalizing k w with
  | zero => simp [termLoop]
  | succ left ih =>
    rw [termLoop, ih, termLoop]
    congr 1
    push_cast
    ring

/-- A term step adds to the subtotal only where the running exponent is negative, and leaves the factors as
`termFactors` gives them. -/
theorem termStep_cases (t : Table) (len : Nat) (p e m k : Int) (w : TermState) :
    (0 ≤ (termFactors t len m k w).v ∧ termStep t len p e m k w = termFactors t len m k w) ∨
    ((termFactors t len m k w).v < 0 ∧
      termStep t len p e m k w =
        { termFactors t len m k w with
          sum := remT ((termFactors t len m k w).sum +
            termValue t p e m k (termFactors t len m k w)) m }) := by
  rcases Int.lt_or_le (termFactors t len m k w).v 0 with h | h
  · exact .inr ⟨h, if_pos h⟩
  · exact .inl ⟨h, if_neg (by omega)⟩

end Sys2Proof.Machine
end

