-- ==== Sys2Proof/Laws/State.lean ====
section
/-! SUPPORT. What each update of the state leaves in each field: one lemma per field per update, so that no
later proof unfolds a record update. -/

namespace Sys2Proof.Machine

variable (s : State)

section

variable (v : Int)

@[simp] theorem setR0_a0 : (setR0 v s).a0 = s.a0 := rfl
@[simp] theorem setR0_a1 : (setR0 v s).a1 = s.a1 := rfl
@[simp] theorem setR0_a2 : (setR0 v s).a2 = s.a2 := rfl
@[simp] theorem setR0_r0 : (setR0 v s).r0 = toWord v := rfl
@[simp] theorem setR0_r1 : (setR0 v s).r1 = s.r1 := rfl
@[simp] theorem setR0_cmd : (setR0 v s).cmd = s.cmd := rfl
@[simp] theorem setR0_status : (setR0 v s).status = s.status := rfl
@[simp] theorem setR0_accHi : (setR0 v s).accHi = s.accHi := rfl
@[simp] theorem setR0_accLo : (setR0 v s).accLo = s.accLo := rfl
@[simp] theorem setR0_pptLen : (setR0 v s).pptLen = s.pptLen := rfl
@[simp] theorem setR0_ppt : (setR0 v s).ppt = s.ppt := rfl
@[simp] theorem setR0_pending : (setR0 v s).pending = s.pending := rfl
@[simp] theorem setR0_returned : (setR0 v s).returned = s.returned := rfl

end

section

variable (v : Int)

@[simp] theorem setR1_a0 : (setR1 v s).a0 = s.a0 := rfl
@[simp] theorem setR1_a1 : (setR1 v s).a1 = s.a1 := rfl
@[simp] theorem setR1_a2 : (setR1 v s).a2 = s.a2 := rfl
@[simp] theorem setR1_r0 : (setR1 v s).r0 = s.r0 := rfl
@[simp] theorem setR1_r1 : (setR1 v s).r1 = toWord v := rfl
@[simp] theorem setR1_cmd : (setR1 v s).cmd = s.cmd := rfl
@[simp] theorem setR1_status : (setR1 v s).status = s.status := rfl
@[simp] theorem setR1_accHi : (setR1 v s).accHi = s.accHi := rfl
@[simp] theorem setR1_accLo : (setR1 v s).accLo = s.accLo := rfl
@[simp] theorem setR1_pptLen : (setR1 v s).pptLen = s.pptLen := rfl
@[simp] theorem setR1_ppt : (setR1 v s).ppt = s.ppt := rfl
@[simp] theorem setR1_pending : (setR1 v s).pending = s.pending := rfl
@[simp] theorem setR1_returned : (setR1 v s).returned = s.returned := rfl

end

section

variable (h l : Int)

@[simp] theorem setAcc_a0 : (setAcc h l s).a0 = s.a0 := rfl
@[simp] theorem setAcc_a1 : (setAcc h l s).a1 = s.a1 := rfl
@[simp] theorem setAcc_a2 : (setAcc h l s).a2 = s.a2 := rfl
@[simp] theorem setAcc_r0 : (setAcc h l s).r0 = s.r0 := rfl
@[simp] theorem setAcc_r1 : (setAcc h l s).r1 = s.r1 := rfl
@[simp] theorem setAcc_cmd : (setAcc h l s).cmd = s.cmd := rfl
@[simp] theorem setAcc_status : (setAcc h l s).status = s.status := rfl
@[simp] theorem setAcc_accHi : (setAcc h l s).accHi = toWord h := rfl
@[simp] theorem setAcc_accLo : (setAcc h l s).accLo = toWord l := rfl
@[simp] theorem setAcc_pptLen : (setAcc h l s).pptLen = s.pptLen := rfl
@[simp] theorem setAcc_ppt : (setAcc h l s).ppt = s.ppt := rfl
@[simp] theorem setAcc_pending : (setAcc h l s).pending = s.pending := rfl
@[simp] theorem setAcc_returned : (setAcc h l s).returned = s.returned := rfl

end

section

variable (t : Table) (n : Nat)

@[simp] theorem setTable_a0 : (setTable t n s).a0 = s.a0 := rfl
@[simp] theorem setTable_a1 : (setTable t n s).a1 = s.a1 := rfl
@[simp] theorem setTable_a2 : (setTable t n s).a2 = s.a2 := rfl
@[simp] theorem setTable_r0 : (setTable t n s).r0 = s.r0 := rfl
@[simp] theorem setTable_r1 : (setTable t n s).r1 = s.r1 := rfl
@[simp] theorem setTable_cmd : (setTable t n s).cmd = s.cmd := rfl
@[simp] theorem setTable_status : (setTable t n s).status = s.status := rfl
@[simp] theorem setTable_accHi : (setTable t n s).accHi = s.accHi := rfl
@[simp] theorem setTable_accLo : (setTable t n s).accLo = s.accLo := rfl
@[simp] theorem setTable_pptLen : (setTable t n s).pptLen = toWord n := rfl
@[simp] theorem setTable_ppt : (setTable t n s).ppt = t := rfl
@[simp] theorem setTable_pending : (setTable t n s).pending = s.pending := rfl
@[simp] theorem setTable_returned : (setTable t n s).returned = s.returned := rfl

end

section

variable (c : Cause)

@[simp] theorem raiseCause_a0 : (raiseCause c s).a0 = s.a0 := rfl
@[simp] theorem raiseCause_a1 : (raiseCause c s).a1 = s.a1 := rfl
@[simp] theorem raiseCause_a2 : (raiseCause c s).a2 = s.a2 := rfl
@[simp] theorem raiseCause_r0 : (raiseCause c s).r0 = s.r0 := rfl
@[simp] theorem raiseCause_r1 : (raiseCause c s).r1 = s.r1 := rfl
@[simp] theorem raiseCause_cmd : (raiseCause c s).cmd = s.cmd := rfl
@[simp] theorem raiseCause_status : (raiseCause c s).status = statusRaised c := rfl
@[simp] theorem raiseCause_accHi : (raiseCause c s).accHi = s.accHi := rfl
@[simp] theorem raiseCause_accLo : (raiseCause c s).accLo = s.accLo := rfl
@[simp] theorem raiseCause_pptLen : (raiseCause c s).pptLen = s.pptLen := rfl
@[simp] theorem raiseCause_ppt : (raiseCause c s).ppt = s.ppt := rfl
@[simp] theorem raiseCause_pending : (raiseCause c s).pending = s.pending := rfl
@[simp] theorem raiseCause_returned : (raiseCause c s).returned = s.returned := rfl

end

section

variable (b : Bool)

@[simp] theorem complete_a0 : (complete b s).a0 = s.a0 := rfl
@[simp] theorem complete_a1 : (complete b s).a1 = s.a1 := rfl
@[simp] theorem complete_a2 : (complete b s).a2 = s.a2 := rfl
@[simp] theorem complete_r0 : (complete b s).r0 = s.r0 := rfl
@[simp] theorem complete_r1 : (complete b s).r1 = s.r1 := rfl
@[simp] theorem complete_cmd : (complete b s).cmd = s.cmd := rfl
@[simp] theorem complete_status : (complete b s).status = statusCompleted s.status b := rfl
@[simp] theorem complete_accHi : (complete b s).accHi = s.accHi := rfl
@[simp] theorem complete_accLo : (complete b s).accLo = s.accLo := rfl
@[simp] theorem complete_pptLen : (complete b s).pptLen = s.pptLen := rfl
@[simp] theorem complete_ppt : (complete b s).ppt = s.ppt := rfl
@[simp] theorem complete_pending : (complete b s).pending = s.pending := rfl
@[simp] theorem complete_returned : (complete b s).returned = s.returned := rfl

end

section

variable (r : List HostEvent)

@[simp] theorem takeEvent_a0 : (takeEvent r s).a0 = s.a0 := rfl
@[simp] theorem takeEvent_a1 : (takeEvent r s).a1 = s.a1 := rfl
@[simp] theorem takeEvent_a2 : (takeEvent r s).a2 = s.a2 := rfl
@[simp] theorem takeEvent_r0 : (takeEvent r s).r0 = s.r0 := rfl
@[simp] theorem takeEvent_r1 : (takeEvent r s).r1 = s.r1 := rfl
@[simp] theorem takeEvent_cmd : (takeEvent r s).cmd = s.cmd := rfl
@[simp] theorem takeEvent_status : (takeEvent r s).status = s.status := rfl
@[simp] theorem takeEvent_accHi : (takeEvent r s).accHi = s.accHi := rfl
@[simp] theorem takeEvent_accLo : (takeEvent r s).accLo = s.accLo := rfl
@[simp] theorem takeEvent_pptLen : (takeEvent r s).pptLen = s.pptLen := rfl
@[simp] theorem takeEvent_ppt : (takeEvent r s).ppt = s.ppt := rfl
@[simp] theorem takeEvent_pending : (takeEvent r s).pending = r := rfl
@[simp] theorem takeEvent_returned : (takeEvent r s).returned = none := rfl

end

section

variable (addr : Address)

@[simp] theorem hostRead_a0 : (hostRead addr s).a0 = s.a0 := rfl
@[simp] theorem hostRead_a1 : (hostRead addr s).a1 = s.a1 := rfl
@[simp] theorem hostRead_a2 : (hostRead addr s).a2 = s.a2 := rfl
@[simp] theorem hostRead_r0 : (hostRead addr s).r0 = s.r0 := rfl
@[simp] theorem hostRead_r1 : (hostRead addr s).r1 = s.r1 := rfl
@[simp] theorem hostRead_cmd : (hostRead addr s).cmd = s.cmd := rfl
@[simp] theorem hostRead_status : (hostRead addr s).status = s.status := rfl
@[simp] theorem hostRead_accHi : (hostRead addr s).accHi = s.accHi := rfl
@[simp] theorem hostRead_accLo : (hostRead addr s).accLo = s.accLo := rfl
@[simp] theorem hostRead_pptLen : (hostRead addr s).pptLen = s.pptLen := rfl
@[simp] theorem hostRead_ppt : (hostRead addr s).ppt = s.ppt := rfl
@[simp] theorem hostRead_pending : (hostRead addr s).pending = s.pending := rfl
@[simp] theorem hostRead_returned : (hostRead addr s).returned = some (readAddr s addr) := rfl

end

section

variable (w : Word)

@[simp] theorem presentCommand_a0 : (presentCommand w s).a0 = s.a0 := rfl
@[simp] theorem presentCommand_a1 : (presentCommand w s).a1 = s.a1 := rfl
@[simp] theorem presentCommand_a2 : (presentCommand w s).a2 = s.a2 := rfl
@[simp] theorem presentCommand_r0 : (presentCommand w s).r0 = s.r0 := rfl
@[simp] theorem presentCommand_r1 : (presentCommand w s).r1 = s.r1 := rfl
@[simp] theorem presentCommand_cmd : (presentCommand w s).cmd = s.cmd := rfl
@[simp] theorem presentCommand_status : (presentCommand w s).status = s.status := rfl
@[simp] theorem presentCommand_accHi : (presentCommand w s).accHi = s.accHi := rfl
@[simp] theorem presentCommand_accLo : (presentCommand w s).accLo = s.accLo := rfl
@[simp] theorem presentCommand_pptLen : (presentCommand w s).pptLen = s.pptLen := rfl
@[simp] theorem presentCommand_ppt : (presentCommand w s).ppt = s.ppt := rfl
@[simp] theorem presentCommand_pending : (presentCommand w s).pending = .write cmdAddr w :: s.pending := rfl
@[simp] theorem presentCommand_returned : (presentCommand w s).returned = s.returned := rfl

end

section

variable (v : Word)

@[simp] theorem withOperand_a0_a0 : (withOperand s v .a0).a0 = v := rfl
@[simp] theorem withOperand_a0_a1 : (withOperand s v .a0).a1 = s.a1 := rfl
@[simp] theorem withOperand_a0_a2 : (withOperand s v .a0).a2 = s.a2 := rfl
@[simp] theorem withOperand_a0_r0 : (withOperand s v .a0).r0 = s.r0 := rfl
@[simp] theorem withOperand_a0_r1 : (withOperand s v .a0).r1 = s.r1 := rfl
@[simp] theorem withOperand_a0_cmd : (withOperand s v .a0).cmd = s.cmd := rfl
@[simp] theorem withOperand_a0_status : (withOperand s v .a0).status = s.status := rfl
@[simp] theorem withOperand_a0_accHi : (withOperand s v .a0).accHi = s.accHi := rfl
@[simp] theorem withOperand_a0_accLo : (withOperand s v .a0).accLo = s.accLo := rfl
@[simp] theorem withOperand_a0_pptLen : (withOperand s v .a0).pptLen = s.pptLen := rfl
@[simp] theorem withOperand_a0_ppt : (withOperand s v .a0).ppt = s.ppt := rfl
@[simp] theorem withOperand_a0_pending : (withOperand s v .a0).pending = s.pending := rfl
@[simp] theorem withOperand_a0_returned : (withOperand s v .a0).returned = s.returned := rfl

end

section

variable (v : Word)

@[simp] theorem withOperand_a1_a0 : (withOperand s v .a1).a0 = s.a0 := rfl
@[simp] theorem withOperand_a1_a1 : (withOperand s v .a1).a1 = v := rfl
@[simp] theorem withOperand_a1_a2 : (withOperand s v .a1).a2 = s.a2 := rfl
@[simp] theorem withOperand_a1_r0 : (withOperand s v .a1).r0 = s.r0 := rfl
@[simp] theorem withOperand_a1_r1 : (withOperand s v .a1).r1 = s.r1 := rfl
@[simp] theorem withOperand_a1_cmd : (withOperand s v .a1).cmd = s.cmd := rfl
@[simp] theorem withOperand_a1_status : (withOperand s v .a1).status = s.status := rfl
@[simp] theorem withOperand_a1_accHi : (withOperand s v .a1).accHi = s.accHi := rfl
@[simp] theorem withOperand_a1_accLo : (withOperand s v .a1).accLo = s.accLo := rfl
@[simp] theorem withOperand_a1_pptLen : (withOperand s v .a1).pptLen = s.pptLen := rfl
@[simp] theorem withOperand_a1_ppt : (withOperand s v .a1).ppt = s.ppt := rfl
@[simp] theorem withOperand_a1_pending : (withOperand s v .a1).pending = s.pending := rfl
@[simp] theorem withOperand_a1_returned : (withOperand s v .a1).returned = s.returned := rfl

end

section

variable (v : Word)

@[simp] theorem withOperand_a2_a0 : (withOperand s v .a2).a0 = s.a0 := rfl
@[simp] theorem withOperand_a2_a1 : (withOperand s v .a2).a1 = s.a1 := rfl
@[simp] theorem withOperand_a2_a2 : (withOperand s v .a2).a2 = v := rfl
@[simp] theorem withOperand_a2_r0 : (withOperand s v .a2).r0 = s.r0 := rfl
@[simp] theorem withOperand_a2_r1 : (withOperand s v .a2).r1 = s.r1 := rfl
@[simp] theorem withOperand_a2_cmd : (withOperand s v .a2).cmd = s.cmd := rfl
@[simp] theorem withOperand_a2_status : (withOperand s v .a2).status = s.status := rfl
@[simp] theorem withOperand_a2_accHi : (withOperand s v .a2).accHi = s.accHi := rfl
@[simp] theorem withOperand_a2_accLo : (withOperand s v .a2).accLo = s.accLo := rfl
@[simp] theorem withOperand_a2_pptLen : (withOperand s v .a2).pptLen = s.pptLen := rfl
@[simp] theorem withOperand_a2_ppt : (withOperand s v .a2).ppt = s.ppt := rfl
@[simp] theorem withOperand_a2_pending : (withOperand s v .a2).pending = s.pending := rfl
@[simp] theorem withOperand_a2_returned : (withOperand s v .a2).returned = s.returned := rfl

end

section

@[simp] theorem hostReset_a0 : (hostReset s).a0 = 0 := rfl
@[simp] theorem hostReset_a1 : (hostReset s).a1 = 0 := rfl
@[simp] theorem hostReset_a2 : (hostReset s).a2 = 0 := rfl
@[simp] theorem hostReset_r0 : (hostReset s).r0 = 0 := rfl
@[simp] theorem hostReset_r1 : (hostReset s).r1 = 0 := rfl
@[simp] theorem hostReset_cmd : (hostReset s).cmd = 0 := rfl
@[simp] theorem hostReset_status : (hostReset s).status = 0 := rfl
@[simp] theorem hostReset_accHi : (hostReset s).accHi = 0 := rfl
@[simp] theorem hostReset_accLo : (hostReset s).accLo = 0 := rfl
@[simp] theorem hostReset_pptLen : (hostReset s).pptLen = 0 := rfl
@[simp] theorem hostReset_ppt : (hostReset s).ppt = Vector.replicate 16 0 := rfl
@[simp] theorem hostReset_pending : (hostReset s).pending = s.pending := rfl
@[simp] theorem hostReset_returned : (hostReset s).returned = none := rfl

end

end Sys2Proof.Machine
end

