-- ==== Sys2Proof/Tests/Slice0.lean ====
section
/-! SUPPORT. The model's own tests: decoding of words written out from R71, one or two steps per command
with values of 95_test_vectors.md, the refusals of the well-formedness checks, and for every statement
with hypotheses a concrete state or operand that meets them. -/

namespace Sys2Proof.Tests

open Sys2Proof.Machine

/-- The reset state with words in the operand registers. -/
def withOps (a0 a1 a2 : Int) : State :=
  { State.reset with a0 := toWord a0, a1 := toWord a1, a2 := toWord a2 }

/-- The state after a command; the state itself where there is none. -/
def after (i : Instr) (s : State) : State :=
  match exec i s with
  | .next t => t
  | .fault _ => s
  | .refused _ => s

/-- The state after a step; the state itself where there is none. -/
def stepped (s : State) : State :=
  match step s with
  | .next t => t
  | .fault _ => s
  | .refused _ => s

/-- The state with the table of a base, as PPTBUILD leaves it. -/
def tableState (p : Int) : State :=
  setTable (pptBuild p State.reset.ppt).1 (pptBuild p State.reset.ppt).2 State.reset

/-! ### Well-formedness: an ill-formed term for each check (R70, R73, R74) -/

theorem test_wf_refuses_reserved_field : commandWordWf 0x00000101#32 = false := by decide
theorem test_wf_refuses_unassigned_opcode : commandWordWf 0x0000000A#32 = false := by decide
theorem test_wf_accepts_digit9 : commandWordWf 0x00000009#32 = true := by decide
theorem test_wf_refuses_read_with_data : recordWf 0x0500000001#40 = false := by decide
theorem test_wf_accepts_write : recordWf 0x8000000001#40 = true := by decide

/-! ### Decoding: each row's word, written from R71 -/

theorem test_decode_nop : decode 0x00000000#32 = .ok .nop := by rfl
theorem test_decode_powmod : decode 0x00000001#32 = .ok .powmod := by rfl
theorem test_decode_invmod : decode 0x00000002#32 = .ok .invmod := by rfl
theorem test_decode_isprime : decode 0x00000003#32 = .ok .isprime := by rfl
theorem test_decode_nextprime : decode 0x00000004#32 = .ok .nextprime := by rfl
theorem test_decode_pptbuild : decode 0x00000005#32 = .ok .pptbuild := by rfl
theorem test_decode_pptextract : decode 0x00000006#32 = .ok .pptextract := by rfl
theorem test_decode_accadd : decode 0x00000007#32 = .ok .accadd := by rfl
theorem test_decode_accclr : decode 0x00000008#32 = .ok .accclr := by rfl
theorem test_decode_digit9 : decode 0x00000009#32 = .ok .digit9 := by rfl
theorem test_decode_refuses_0A : decode 0x0000000A#32 = .error .opcodeUnassigned := by rfl
theorem test_decode_refuses_all_ones :
    decode 0xFFFFFFFF#32 = .error .reservedFieldNotZero := by rfl
theorem test_table_word_digit9 : decodeTableWord 32 9 = some .digit9 := by decide
theorem test_table_word_refused : decodeTableWord 32 0x109 = none := by decide
theorem test_bytes_incomplete : decodeBytes [0x01#8, 0x00#8] = .error .wordIncomplete := by rfl

/-! ### Arithmetic (V-ARITH) -/

theorem test_wrap_top : wrap32 2147483648 = -2147483648 := by decide
theorem test_wrap_first_unsafe_square : wrap32 (46341 * 46341) = -2147479015 := by decide
theorem test_div_rem_signs :
    (divT (-7) 2, remT (-7) 2, divT 7 (-2), remT 7 (-2)) = (-3, -1, -3, 1) := by decide
theorem test_div_overflow : (divT (-2147483648) (-1), remT (-2147483648) (-1)) = (-2147483648, 0) := by
  decide
theorem test_smod_least_word : smod (-2147483648) 7 = 5 := by decide
theorem test_mulmod_power_of_two : mulmod 2097151 2097151 2097152 = 1 := by decide
theorem test_mulmod_out_of_domain : mulmod 46341 46341 46349 = 9202 := by decide

/-! ### Commands: values of 95_test_vectors.md -/

/-- V-ERR-10: after a fault NOP clears the cause and keeps FAULT. -/
theorem test_nop_keeps_fault :
    (after .nop { State.reset with status := 0x80000001#32 }).status = 0x80000010#32 := by decide
/-- V-POW-12: a negative base. -/
theorem test_powmod_negative_base : (after .powmod (withOps (-2) 3 5)).r0 = 2#32 := by decide
/-- V-POW-18: A0, A1 and A2 all different and none reduced. -/
theorem test_powmod_fermat : (after .powmod (withOps 12345 46335 46337)).r0 = 35891#32 := by
  decide +kernel
/-- V-INV-2: a negative value, normalised by one addition. -/
theorem test_invmod_negative : (after .invmod (withOps (-3) 7 0)).r0 = 2#32 := by decide
/-- V-INV-4: the worst case, 21 half-steps. -/
theorem test_invmod_fibonacci : (after .invmod (withOps 17711 28657 0)).r0 = 10946#32 := by
  decide +kernel
/-- V-PRM: 221 = 13·17. -/
theorem test_isprime_221 : (after .isprime (withOps 221 0 0)).r0 = 0#32 := by decide
/-- V-PRM: 223, the first prime outside the table. -/
theorem test_isprime_223 : (after .isprime (withOps 223 0 0)).r0 = 1#32 := by decide +kernel
/-- V-NXT: 211 leaves the table. -/
theorem test_nextprime_211 : (after .nextprime (withOps 211 0 0)).r0 = 223#32 := by decide +kernel
/-- V-NXT: the search wraps at the top of the word range. -/
theorem test_nextprime_wraps :
    (after .nextprime (withOps 2147483647 0 0)).r0.toInt = -2147483647 := by decide +kernel
/-- V-PPT: the table of 13, its length in PPT_LEN and R0. -/
theorem test_pptbuild_13 :
    ((after .pptbuild (withOps 13 0 0)).ppt.toList.take 6, (after .pptbuild (withOps 13 0 0)).pptLen,
      (after .pptbuild (withOps 13 0 0)).r0) =
    ([1#32, 13#32, 169#32, 2197#32, 28561#32, 0#32], 5#32, 5#32) := by decide +kernel
/-- V-PPT: entries at and above the new length keep their values. -/
theorem test_pptbuild_keeps_old_entries :
    (after .pptbuild { tableState 2 with a0 := 3#32 }).ppt.toList.drop 9 =
      [19683#32, 1024#32, 2048#32, 4096#32, 8192#32, 16384#32, 32768#32] := by decide +kernel
/-- V-EXT: 118098 = 2·3^10, one division by the top entry only. -/
theorem test_pptextract_top_entry :
    ((after .pptextract { tableState 3 with a0 := 118098#32 }).r0,
      (after .pptextract { tableState 3 with a0 := 118098#32 }).r1) = (6#32, 9#32) := by
  decide +kernel
/-- V-EXT: an empty table tests nothing. -/
theorem test_pptextract_empty_table : (after .pptextract (withOps 12 0 0)).r0 = 12#32 := by decide
/-- V-ACC: a carry out of `lo`, and the unit above `hi` dropped. -/
theorem test_accadd_carry :
    ((after .accadd { withOps 1 3 0 with accHi := 999999999#32, accLo := 999999999#32 }).accHi,
      (after .accadd { withOps 1 3 0 with accHi := 999999999#32, accLo := 999999999#32 }).accLo) =
    (333333333#32, 333333332#32) := by decide +kernel
/-- V-ACC: the rescaled path. -/
theorem test_accadd_rescaled :
    ((after .accadd (withOps 1980608 2097152 0)).r0, (after .accadd (withOps 1980608 2097152 0)).r1) =
    (944427490#32, 234375000#32) := by decide +kernel
/-- R156: ACCCLR clears R1 too. -/
theorem test_accclr_clears_r1 :
    (after .accclr { State.reset with r1 := 7#32, accLo := 7#32 }).r1 = 0#32 := by decide
/-- V-SRC-1: the first nine digits. -/
theorem test_digit9_first_digits : (after .digit9 State.reset).r0 = 141592653#32 := by decide +kernel
/-- V-ERR-8: one above INDEX_MAX. -/
theorem test_digit9_out_of_range : (after .digit9 (withOps 17437 0 0)).status = 0x80000003#32 := by
  decide

/-! ### Steps, transactions, records, scripts -/

/-- V-ERR-3: an illegal word stays in CMD. -/
theorem test_step_illegal_word :
    ((stepped (State.reset.withFetchWord 32 0x0A)).cmd,
      (stepped (State.reset.withFetchWord 32 0x0A)).status) = (0x0A#32, 0x80000001#32) := by decide
/-- R54: a write to CMD runs the command. -/
theorem test_step_runs_nop :
    (stepped (State.reset.withFetchWord 32 0)).status = 0x00000010#32 := by decide
/-- V-MEM: `6E 00000000` reads `PRIME_ROM[46] = 211`. -/
theorem test_step_reads_prime_rom :
    (stepped { State.reset with pending := [.read 0x6E#7] }).returned = some 211#32 := by decide
/-- V-MEM: a write to a read-only register is ignored. -/
theorem test_step_ignores_write_to_acc_hi :
    (stepped { State.reset with pending := [.write 0x07#7 5#32] }).accHi = 0#32 := by decide
/-- V-ERR-14: the reset event clears FAULT. -/
theorem test_step_reset_clears_fault :
    (stepped { State.reset with status := 0x80000001#32, pending := [.reset] }).status = 0#32 := by
  decide
/-- R74's own example: `80 00000001` is the write of 1 to CMD. -/
theorem test_record_powmod : decodeRecord 0x8000000001#40 = .ok (.write 0#7 1#32) := by rfl
theorem test_record_refuses_read_with_data :
    decodeRecord 0x0500000001#40 = .error .readWithData := by rfl
/-- Program P4's line. -/
theorem test_script_reads_powmod :
    readLine ['P', 'O', 'W', 'M', 'O', 'D', ' ', '1', '2', ',', ' ', '-', '1', ',', ' ', '7', ';', 'x'] =
      .ok (some (.powmod 12#32 (-1#32) 7#32)) := by rfl
/-- Program P2's line. -/
theorem test_script_reads_rd :
    readLine ['R', 'D', ' ', 'P', 'P', 'T', '[', '1', '0', ']', ' ', '=', ' ', '0', 'x', '1', 'F'] =
      .ok (some (.rd (.ppt 10) (some 0x1F#32))) := by rfl
theorem test_script_refuses_ppt16 :
    readLine ['R', 'D', ' ', 'P', 'P', 'T', '[', '1', '6', ']'] = .error .unknownRegister := by rfl
theorem test_script_refuses_large_number :
    readLine ['C', 'M', 'D', 'W', ' ', '4', '2', '9', '4', '9', '6', '7', '2', '9', '6'] =
      .error .numberTooLarge := by rfl
/-- R179: the first transition of a DIGIT9. -/
theorem test_sequencer_starts_with_two :
    ((seqStep (seqStart 0 State.reset.ppt)).phase, (seqStep (seqStart 0 State.reset.ppt)).p,
      (seqStep (seqStart 0 State.reset.ppt)).n) = (.primeSetup, 2, 16) := by decide

end Sys2Proof.Tests
end

