-- ==== Sys2Proof/Tests/Witnesses.lean ====
section
/-! SUPPORT. For every statement with hypotheses, a concrete state and operands that meet them, one for
each clause, at the edge of the clause's range. -/

namespace Sys2Proof.Tests

open Sys2Proof.Machine

/-- Both limbs at their largest. -/
def fullLimbs (s : State) : State := { s with accHi := 999999999#32, accLo := 999999999#32 }

/-! ### Encoding -/

theorem witness_IllegalWord_unassigned : ∀ i, (0x0000000A#32 : Word) ≠ encode i := by
  intro i; cases i <;> decide
theorem witness_IllegalWord_reserved : ∀ i, (0x00000100#32 : Word) ≠ encode i := by
  intro i; cases i <;> decide
theorem witness_Records_read : encodeRecord (.read 0x7F#7) = some 0x7F00000000#40 := by decide
theorem witness_Records_write :
    encodeRecord (.write 0x7F#7 0xFFFFFFFF#32) = some 0xFFFFFFFFFF#40 := by decide
theorem witness_Records_refused :
    (0x7F00000001#40).toNat < 2 ^ 39 ∧ (0x7F00000001#40).toNat % 2 ^ 32 ≠ 0 := by decide

/-! ### The step -/

theorem witness_Step_idle : State.reset.pending = [] := by decide
theorem witness_Step_read :
    ({ State.reset with pending := [.read 0x7F#7] } : State).pending = .read 0x7F#7 :: [] := by decide
theorem witness_Step_write :
    ({ State.reset with pending := [.write 0x00#7 9#32] } : State).pending =
      .write 0x00#7 9#32 :: [] := by decide
theorem witness_Step_reset :
    ({ State.reset with pending := [.reset, .reset] } : State).pending = .reset :: [.reset] := by decide
theorem witness_StepRuns :
    decode 0x00000009#32 = .ok .digit9 ∧
    ({ State.reset with pending := [.write 0x00#7 9#32] } : State).pending =
      .write 0x00#7 0x00000009#32 :: [] := ⟨rfl, rfl⟩

/-! ### POWMOD and INVMOD -/

theorem witness_Powmod_invalid :
    (withOps 2 (-1) 5).a1.toInt < 0 ∧ (withOps 2 3 0).a2.toInt ≤ 0 := by decide
theorem witness_Powmod_valid :
    0 ≤ (withOps 7 0 1).a1.toInt ∧ 0 < (withOps 7 0 1).a2.toInt := by decide
theorem witness_PowDomain_safe_zone :
    PowDomain (withOps (-46340) 0 46340).a0.toInt (withOps (-46340) 0 46340).a1.toInt
      (withOps (-46340) 0 46340).a2.toInt :=
  ⟨by decide, by decide, .inl (by decide)⟩
theorem witness_PowDomain_power_of_two :
    PowDomain (withOps (-2147483648) 2147483647 1073741824).a0.toInt
      (withOps (-2147483648) 2147483647 1073741824).a1.toInt
      (withOps (-2147483648) 2147483647 1073741824).a2.toInt :=
  ⟨by decide, by decide, .inr ⟨by decide, 30, by decide, by decide⟩⟩
theorem witness_PowmodCorners :
    (0 ≤ (withOps 7 0 1).a1.toInt ∧ (withOps 7 0 1).a2.toInt = 1) ∧
    (0 ≤ (withOps 7 0 2).a1.toInt ∧ 2 ≤ (withOps 7 0 2).a2.toInt ∧ (withOps 7 0 2).a1.toInt = 0) ∧
    (2 ≤ (withOps 0 1 2).a2.toInt ∧ (withOps 0 1 2).a0.toInt = 0 ∧ 0 < (withOps 0 1 2).a1.toInt) := by
  decide
theorem witness_Invmod_invalid : (withOps 3 0 0).a1.toInt ≤ 0 := by decide
theorem witness_Invmod_valid : 0 < (withOps 0 1 0).a1.toInt := by decide
theorem witness_InvDomain :
    InvDomain (withOps (-46339) 46340 0).a0.toInt (withOps (-46339) 46340 0).a1.toInt :=
  ⟨by decide, by decide, by decide, by decide, by decide⟩
theorem witness_InvDomainTwo :
    InvDomainTwo (withOps (-524287) 524288 0).a0.toInt (withOps (-524287) 524288 0).a1.toInt :=
  ⟨by decide, by decide, by decide, 19, by decide, by decide⟩
theorem witness_BezoutInv : BezoutInv 7 3 3 1 1 (-2) :=
  ⟨by decide, by decide, by decide, by decide, by decide, by decide, by decide, by decide,
    ⟨0, by decide⟩, ⟨1, by decide⟩, by decide, by decide⟩
theorem witness_BezoutInv_start :
    (1 : Int) ≤ 1073741823 ∧ (1073741823 : Int) < 2 ^ 30 ∧ (0 : Int) ≤ 1073741823 := by decide

/-! ### The oracle, the table, the extractor -/

theorem witness_IsprimeExact :
    (2 ≤ (withOps 2 0 0).a0.toInt ∧ (withOps 2 0 0).a0.toInt < 49729) ∧
    (2 ≤ (withOps 49728 0 0).a0.toInt ∧ (withOps 49728 0 0).a0.toInt < 49729) := by decide
theorem witness_NextprimeExact :
    (1 ≤ (withOps 1 0 0).a0.toInt ∧ (withOps 1 0 0).a0.toInt < 49727) ∧
    (1 ≤ (withOps 49726 0 0).a0.toInt ∧ (withOps 49726 0 0).a0.toInt < 49727) := by decide
theorem witness_Pptbuild :
    (withOps 1 0 0).a0.toInt < 2 ∧ 2 ≤ (withOps 2 0 0).a0.toInt ∧
    2 ≤ (withOps 2147483647 0 0).a0.toInt := by decide
theorem witness_Pptextract_empty : (withOps 12 0 0).pptLen = 0 := by decide
theorem witness_TableOf_two : (tableState 2).TableOf 2 :=
  ⟨by decide, by decide +kernel, by decide +kernel, by decide +kernel, by decide +kernel⟩
theorem witness_TableOf_single : (tableState 46341).TableOf 46341 :=
  ⟨by decide, by decide +kernel, by decide +kernel, by decide +kernel, by decide +kernel⟩
theorem witness_PptextractMultiplicity :
    Nat.Prime 2 ∧ ({ tableState 2 with a0 := 65536#32 } : State).TableOf (2 : Nat) ∧
    1 ≤ ({ tableState 2 with a0 := 65536#32 } : State).a0.toInt :=
  ⟨Nat.prime_two, ⟨by decide, by decide +kernel, by decide +kernel, by decide +kernel, by decide +kernel⟩,
    by decide⟩
theorem witness_PptextractMultiplicity_clauses :
    ¬ ((2 : Int) ^ (tableState 2).pptLen.toInt.toNat ∣ 32768) ∧
    (2 : Int) ^ (tableState 2).pptLen.toInt.toNat ∣ 65536 ∧ (46340 : Int) ≤ Config.ppCeil := by
  decide +kernel

/-! ### The accumulator -/

theorem witness_Accadd : (withOps 1 0 0).a1.toInt ≤ 0 ∧ 0 < (withOps 1 1 0).a1.toInt := by decide
theorem witness_AccDomain_direct :
    (fullLimbs (withOps 60000 60000 0)).LimbsOk ∧
    AccDomain (fullLimbs (withOps 60000 60000 0)).a0.toInt (fullLimbs (withOps 60000 60000 0)).a1.toInt :=
  ⟨⟨by decide, by decide, by decide, by decide⟩, .inl (by decide)⟩
theorem witness_AccDomain_rescaled :
    (fullLimbs (withOps 16777215 16777216 0)).LimbsOk ∧
    AccDomain (fullLimbs (withOps 16777215 16777216 0)).a0.toInt
      (fullLimbs (withOps 16777215 16777216 0)).a1.toInt :=
  ⟨⟨by decide, by decide, by decide, by decide⟩,
    .inr ⟨24, by decide, by decide, by decide, by decide, by decide⟩⟩
theorem witness_OrderIndependent :
    [((1 : Int), (3 : Int)), (1, 65536)].Perm [(1, 65536), (1, 3)] ∧
    (∀ f ∈ [((1 : Int), (3 : Int)), (1, 65536)], AccDomain f.1 f.2) ∧ LimbPair 999999999 999999999 := by
  refine ⟨.swap _ _ _, fun f hf => ?_, by unfold LimbPair; decide⟩
  rcases List.mem_cons.mp hf with rfl | hf
  · exact .inl (by decide)
  · rcases List.mem_cons.mp hf with rfl | hf
    · exact .inr ⟨16, by decide, by decide, by decide, by decide, by decide⟩
    · cases hf
theorem witness_SplitDivision : (1 : Int) ≤ 67108 ∧ (67108 : Int) ≤ 67108 ∧ (0 : Int) ≤ 67108 := by
  decide

/-! ### DIGIT9 -/

theorem witness_IndexOk_first : IndexOk (withOps 0 0 0).a0.toInt := ⟨by decide, by decide⟩
theorem witness_IndexOk_last : IndexOk (withOps 17436 0 0).a0.toInt := ⟨by decide, by decide⟩
theorem witness_Digit9_refuses : (withOps (-1) 0 0).a0.toInt < 0 ∧ 17436 < (withOps 17437 0 0).a0.toInt := by
  decide
theorem witness_Digit9_index_alone :
    (withOps 17436 0 0).a0 = (fullLimbs (withOps 17436 5 6)).a0 ∧
    IndexOk (withOps 17436 0 0).a0.toInt := ⟨by decide, by decide, by decide⟩
theorem witness_TermCount : (0 : Int) ≤ maxWord ∧ maxWord ≤ maxWord ∧ (0 : Int) ≤ 0 := by decide
theorem witness_Digit9_exponents_two :
    IndexOk 215 ∧ Nat.Prime 2 ∧ ((2 : Nat) : Int) ≤ 3 * termCount 215 ∧
    (primeSetup (pptBuild 2 State.reset.ppt).1 (pptBuild 2 State.reset.ppt).2 2 (termCount 215) 215).isSome ∧
    ((16 : Nat) : Int) ≤ termCount 215 :=
  ⟨⟨by decide, by decide⟩, Nat.prime_two, by decide +kernel, by decide +kernel, by decide +kernel⟩
theorem witness_Digit9_exponents_odd :
    IndexOk 0 ∧ Nat.Prime 47 ∧ ((47 : Nat) : Int) ≤ 3 * termCount 0 ∧
    (primeSetup (pptBuild 47 State.reset.ppt).1 (pptBuild 47 State.reset.ppt).2 47 (termCount 0) 0).isSome ∧
    ((16 : Nat) : Int) ≤ termCount 0 ∧
    (termLoop (pptBuild 47 State.reset.ppt).1 (pptBuild 47 State.reset.ppt).2 47 2 2209 16 1
      (startTerms 0)).v < 0 :=
  ⟨⟨by decide, by decide⟩, by norm_num, by decide +kernel, by decide +kernel, by decide +kernel,
    by decide +kernel⟩

/-- For the prime 2 at index 0 the exponent is 21 and the last term is added; with 15 terms before it the
statement about one term more has both its cases met, here and at index 215. -/
theorem witness_Digit9_exponents_two_negative :
    IndexOk 0 ∧ Nat.Prime 2 ∧ ((2 : Nat) : Int) ≤ 3 * termCount 0 ∧
    primeSetup (pptBuild 2 State.reset.ppt).1 (pptBuild 2 State.reset.ppt).2 2 (termCount 0) 0 =
      some { e := 21, m := 2097152, shift := 1, v := 0 } ∧
    ((15 : Nat) : Int) < termCount 0 ∧
    (termLoop (pptBuild 2 State.reset.ppt).1 (pptBuild 2 State.reset.ppt).2 2 21 2097152 16 1
      (startTerms 0)).v < 0 :=
  ⟨⟨by decide, by decide⟩, Nat.prime_two, by decide +kernel, by decide +kernel, by decide +kernel,
    by decide +kernel⟩
theorem witness_Digit9_terms_not_negative :
    primeSetup (pptBuild 2 State.reset.ppt).1 (pptBuild 2 State.reset.ppt).2 2 (termCount 215) 215 =
      some { e := 1, m := 2, shift := 1, v := 215 } ∧
    0 ≤ (termLoop (pptBuild 2 State.reset.ppt).1 (pptBuild 2 State.reset.ppt).2 2 1 2 1 1
      (startTerms 215)).v := ⟨by decide +kernel, by decide +kernel⟩
/-- Index 216 is the first at which the setup skips the prime 2. -/
theorem witness_Digit9_setup_skips :
    IndexOk 216 ∧ ((2 : Nat) : Int) ≤ 3 * termCount 216 ∧
    primeSetup (pptBuild 2 State.reset.ppt).1 (pptBuild 2 State.reset.ppt).2 2 (termCount 216) 216 =
      none := ⟨⟨by decide, by decide⟩, by decide +kernel, by decide +kernel⟩

/-- A controller state in the given phase, at the last term of index 0. -/
def seqAt (ph : Phase) : Seq := { seqStart 0 State.reset.ppt with phase := ph, p := 2, k := 1, n := 16 }

theorem witness_Sequencer_phases :
    (seqAt .idle).phase = .idle ∧ (seqAt .term).phase ≠ .idle ∧ (seqAt .term).phase = .term ∧
    (seqAt .term).k < (seqAt .term).n ∧ (seqAt .advance).phase = .advance ∧
    (seqAt .primeSetup).phase = .primeSetup ∧ (seqAt .fold).phase = .fold ∧
    (seqAt .finish).phase = .finish ∧ ¬ (16 : Int) < (seqAt .term).n := by decide
theorem witness_Sequencer_from_init :
    (seqStart 17436 State.reset.ppt).phase = .init ∧ IndexOk (seqStart 17436 State.reset.ppt).index ∧
    (seqAt .init).phase = .init ∧ IndexOk (seqAt .init).index :=
  ⟨rfl, ⟨by decide, by decide⟩, rfl, ⟨by decide, by decide⟩⟩
/-- Index 216 is the first at which the prime 2 is skipped. -/
theorem witness_Sequencer_skip :
    (seqStep { seqAt .primeSetup with index := 216, n := 207 }).phase = .advance := by decide +kernel

/-! ### Arithmetic, causes, the register space, reset -/

theorem witness_Mulmod : (1 : Int) ≤ maxWord ∧ IsWord (46340 * 46340) ∧ (30 : Nat) ≤ 30 := by decide
theorem witness_Division :
    IsWord minWord ∧ IsWord (-1) ∧ (-1 : Int) ≠ 0 ∧ (minWord = minWord ∧ (-1 : Int) = -1) := by decide
theorem witness_LoopBounds :
    (0 : Int) ≤ maxWord ∧ 31 ≤ 31 ∧ IsWord 0 ∧ 2 ^ 32 ≤ searchBound ∧ IndexOk 17436 ∧
    (3 * termCount 17436).toNat ≤ 46338 :=
  ⟨by decide, by decide, by decide, by decide, ⟨by decide, by decide⟩, by decide +kernel⟩
theorem witness_Causes_invalid :
    exec .accadd (withOps 1 0 0) = .next (raiseCause .invalidInput (withOps 1 0 0)) ∧
    statusCause (raiseCause .invalidInput (withOps 1 0 0)).status ≠ 0 := ⟨rfl, by decide⟩
theorem witness_Causes_range :
    exec .digit9 (withOps 17437 0 0) = .next (raiseCause .outOfRange (withOps 17437 0 0)) ∧
    17436 < (withOps 17437 0 0).a0.toInt := ⟨rfl, by decide⟩
theorem witness_RaisedCause :
    hostWrite cmdAddr 0x0A#32 State.reset =
      .next { State.reset with cmd := 0x0A#32, status := 0x80000001#32 } := rfl
theorem witness_Fault_sticky :
    statusFault ({ State.reset with status := 0x80000001#32 } : State).status = true ∧
    step { State.reset with status := 0x80000001#32, pending := [.read 0#7] } =
      .next { State.reset with status := 0x80000001#32, returned := some 0#32 } := ⟨by decide, rfl⟩
theorem witness_Fault_cleared :
    step { State.reset with status := 0x80000001#32, pending := [.reset] } = .next State.reset := rfl
theorem witness_Fault_set :
    step { State.reset with pending := [.write 0x00#7 0x0A#32] } =
      .next { State.reset with cmd := 0x0A#32, status := 0x80000001#32 } := rfl
theorem witness_Commands : exec .nop State.reset = .next (complete false State.reset) := rfl
theorem witness_UnusedOperand : OperandReg.a2 ∉ operandsRead .invmod := by decide
theorem witness_Unmapped :
    (0x0A ≤ (0x0A#7).toNat ∧ (0x0A#7).toNat ≤ 0x0F) ∧ (0x20 ≤ (0x3F#7).toNat ∧ (0x3F#7).toNat ≤ 0x3F) ∧
    (0x6F ≤ (0x6F#7).toNat ∧ (0x6F#7).toNat ≤ 0x7F) := by decide
theorem witness_ReadOnly :
    (0x01#7).toNat = 0x01 ∧ (0x05 ≤ (0x09#7).toNat ∧ (0x09#7).toNat ≤ 0x09) ∧
    (0x10 ≤ (0x1F#7).toNat ∧ (0x1F#7).toNat ≤ 0x1F) ∧
    (0x40 ≤ (0x6E#7).toNat ∧ (0x6E#7).toNat ≤ 0x6E) := by decide
theorem witness_Inv_after_step :
    step State.reset = .next State.reset ∧ State.reset.LimbsOk ∧ State.reset.TableOk ∧
    State.reset.StatusOk :=
  ⟨rfl, by unfold State.LimbsOk; decide, .inl rfl, by unfold State.StatusOk; decide⟩

end Sys2Proof.Tests
end

section
/-! The register space as the host sees it (R51 to R55): what a read and a write do at an unmapped address,
at a read-only one, at an operand register and at CMD. -/

namespace Sys2Proof.Machine

/-! ### The map -/

/-- The three ranges of R51 that hold no register, checked over the 128 addresses of the space (R50). -/
theorem regAt_eq_none_iff (addr : Address) :
    regAt addr = none ↔
      (0x0A ≤ addr.toNat ∧ addr.toNat ≤ 0x0F) ∨ (0x20 ≤ addr.toNat ∧ addr.toNat ≤ 0x3F) ∨
        (0x6F ≤ addr.toNat ∧ addr.toNat ≤ 0x7F) := by
  revert addr; decide

/-! ### Reading and storing -/

section

variable (s : State) (v : Word)

/-- A read of an address without a register (R55). -/
theorem readAddr_of_regAt_none {addr : Address} (h : regAt addr = none) : readAddr s addr = 0 := by
  simp only [readAddr, h]

@[simp] theorem storeAddr_addressOf_cmd : storeAddr s (addressOf .cmd) v = { s with cmd := v } := by
  simp only [storeAddr, regAt_addressOf]

@[simp] theorem storeAddr_addressOf_a0 : storeAddr s (addressOf .a0) v = { s with a0 := v } := by
  simp only [storeAddr, regAt_addressOf]

@[simp] theorem storeAddr_addressOf_a1 : storeAddr s (addressOf .a1) v = { s with a1 := v } := by
  simp only [storeAddr, regAt_addressOf]

@[simp] theorem storeAddr_addressOf_a2 : storeAddr s (addressOf .a2) v = { s with a2 := v } := by
  simp only [storeAddr, regAt_addressOf]

/-- Apart from CMD at 0x00 and the operand registers at 0x02 to 0x04, no address takes a word
(R53, R55). -/
theorem storeAddr_eq_self {addr : Address} (h : addr.toNat = 0x01 ∨ 0x05 ≤ addr.toNat) :
    storeAddr s addr v = s := by
  obtain ⟨ha, -⟩ | ⟨ha, -⟩ | ⟨ha, -⟩ | ⟨ha, -⟩ | hs := storeAddr_cases s addr v
  case inr.inr.inr.inr => exact hs
  all_goals
    subst ha
    exact absurd h (by decide)

/-! ### A host write -/

/-- A write anywhere but at CMD stores and runs nothing (R53, R58). -/
theorem hostWrite_of_ne_cmdAddr {addr : Address} (h : addr ≠ cmdAddr) :
    hostWrite addr v s = .next (storeAddr s addr v) :=
  if_neg h

/-- A write to CMD stores the word, then executes it (R54). -/
theorem hostWrite_cmdAddr : hostWrite cmdAddr v s = runCommand v { s with cmd := v } :=
  (if_pos rfl).trans (congrArg (runCommand v) (storeAddr_addressOf_cmd s v))

theorem hostWrite_addressOf_a0 : hostWrite (addressOf .a0) v s = .next { s with a0 := v } := by
  rw [hostWrite_of_ne_cmdAddr s v (by decide), storeAddr_addressOf_a0]

theorem hostWrite_addressOf_a1 : hostWrite (addressOf .a1) v s = .next { s with a1 := v } := by
  rw [hostWrite_of_ne_cmdAddr s v (by decide), storeAddr_addressOf_a1]

theorem hostWrite_addressOf_a2 : hostWrite (addressOf .a2) v s = .next { s with a2 := v } := by
  rw [hostWrite_of_ne_cmdAddr s v (by decide), storeAddr_addressOf_a2]

/-- A write at a read-only or unmapped address changes nothing (R53, R55). -/
theorem hostWrite_ignored {addr : Address} (h : addr.toNat = 0x01 ∨ 0x05 ≤ addr.toNat) :
    hostWrite addr v s = .next s := by
  have hne : addr ≠ cmdAddr := by
    rintro rfl
    exact absurd h (by decide)
  rw [hostWrite_of_ne_cmdAddr s v hne, storeAddr_eq_self s v h]

end

/-! ### The statements -/

/-- Settles O53: the three ranges are exactly the addresses without a register, and all lie above the
writable ones. -/
theorem unmappedAddressesReadZeroAndIgnoreWrites :
    Obligations.UnmappedAddressesReadZeroAndIgnoreWrites := by
  intro s addr v hrange
  have hnone : regAt addr = none := (regAt_eq_none_iff addr).mpr hrange
  have hhigh : 0x05 ≤ addr.toNat := by omega
  exact ⟨readAddr_of_regAt_none s hnone, hostWrite_ignored s v (.inr hhigh)⟩

/-- Settles O54: the four writable addresses by their registers, the read-only ranges by
`hostWrite_ignored`. -/
theorem hostWritesFollowTheMap : Obligations.HostWritesFollowTheMap := by
  intro s v
  refine ⟨hostWrite_addressOf_a0 s v, hostWrite_addressOf_a1 s v, hostWrite_addressOf_a2 s v,
    hostWrite_cmdAddr s v, fun addr hrange => hostWrite_ignored s v ?_⟩
  omega

end Sys2Proof.Machine
end

section
/-! The command words (R70, R71, R73): which words the decoder accepts, which are illegal, and all that a
write of an illegal word to CMD does (R216). -/

namespace Sys2Proof.Machine

/-! ### The fields of a command word -/

/-- The two fields of R70 make up the whole word. -/
theorem reservedField_append_opcodeField (w : Word) : reservedField w ++ opcodeField w = w := by
  have hsplit : w.extractLsb' 8 24 ++ w.extractLsb' 0 8 = w.extractLsb' 0 32 :=
    BitVec.extractLsb'_append_extractLsb'_eq_extractLsb' rfl
  exact hsplit.trans BitVec.extractLsb'_eq_self

@[simp] theorem reservedField_encode (i : Instr) : reservedField (encode i) = 0 := by
  cases i <;> rfl

@[simp] theorem opcodeField_encode (i : Instr) : opcodeField (encode i) = opcodeOf i := by
  cases i <;> rfl

/-- A word is a command's word exactly when its two fields are that word's (R70, R71). -/
theorem eq_encode_iff {w : Word} {i : Instr} :
    w = encode i ↔ reservedField w = 0 ∧ opcodeOf i = opcodeField w := by
  constructor
  · rintro rfl
    exact ⟨reservedField_encode i, (opcodeField_encode i).symm⟩
  · rintro ⟨hres, hop⟩
    rw [← reservedField_append_opcodeField w, hres, ← hop, encode]

/-! ### The opcode map and the decoder -/

/-- The opcode map inverts the opcodes of R71. -/
theorem opcodeMap_eq_some_iff {op : BitVec 8} {i : Instr} : opcodeMap op = some i ↔ opcodeOf i = op := by
  refine ⟨opcodeOf_opcodeMap, ?_⟩
  rintro rfl
  cases i <;> rfl

/-- The opcodes of R71 are 0x00 to 0x09; the others are unassigned (R73). -/
theorem exists_opcodeOf_eq_iff (op : BitVec 8) : (∃ i, opcodeOf i = op) ↔ op.toNat < 0x0A := by
  constructor
  · rintro ⟨i, rfl⟩
    cases i <;> decide
  · intro hlt
    have hsome : ∀ op : BitVec 8, op.toNat < 0x0A → (opcodeMap op).isSome := by decide
    obtain ⟨i, hi⟩ := Option.isSome_iff_exists.mp (hsome op hlt)
    exact ⟨i, opcodeOf_opcodeMap hi⟩

/-- The decoder answers a command exactly on a zero reserved field and that command's opcode. -/
theorem decode_eq_ok_iff_fields {w : Word} {i : Instr} :
    decode w = .ok i ↔ reservedField w = 0 ∧ opcodeMap (opcodeField w) = some i := by
  unfold decode
  split
  · next hres => cases opcodeMap (opcodeField w) <;> simp only [hres, true_and, reduceCtorEq,
      Except.ok.injEq, Option.some.injEq]
  · next hres => simp only [hres, false_and, reduceCtorEq]

/-- The decoder accepts the command words and nothing else (R71, R73). -/
theorem decode_eq_ok_iff {w : Word} {i : Instr} : decode w = .ok i ↔ w = encode i := by
  rw [decode_eq_ok_iff_fields, opcodeMap_eq_some_iff, eq_encode_iff]

/-! ### Illegal words -/

/-- The illegal words by their fields (R73). -/
theorem forall_ne_encode_iff (w : Word) :
    (∀ i, w ≠ encode i) ↔
      reservedField w ≠ 0 ∨ (reservedField w = 0 ∧ 0x0A ≤ (opcodeField w).toNat) := by
  have hlegal : (∃ i, w = encode i) ↔ reservedField w = 0 ∧ (opcodeField w).toNat < 0x0A := by
    simp only [eq_encode_iff, exists_and_left, exists_opcodeOf_eq_iff]
  rw [← not_exists, hlegal, ← not_lt]
  tauto

/-- What raising IllegalCommand leaves of a state, STATUS as a word (R216, R220). -/
theorem raiseCause_illegalCommand (s : State) :
    raiseCause .illegalCommand s = { s with status := 0x80000001#32 } := by
  rw [raiseCause, statusRaised_illegalCommand]

/-- An illegal word runs no command (R216). -/
theorem runCommand_of_illegal {w : Word} (hw : ∀ i, w ≠ encode i) (s : State) :
    runCommand w s = .next (raiseCause .illegalCommand s) := by
  obtain ⟨i, hdec, -⟩ | ⟨-, -, hrun⟩ := runCommand_cases w s
  · exact absurd (decode_eq_ok_iff.mp hdec) (hw i)
  · exact hrun

/-! ### The statement -/

/-- Settles O3: the partition of the words from their two fields, and the write as store, then refusal by
the decoder. -/
theorem illegalWordOnlyRaisesIllegalCommand : Obligations.IllegalWordOnlyRaisesIllegalCommand := by
  refine ⟨forall_ne_encode_iff, fun w s hw => ?_⟩
  rw [hostWrite_cmdAddr, runCommand_of_illegal hw, raiseCause_illegalCommand]

end Sys2Proof.Machine
end

section
/-! POWMOD (R110, R111): the residues its loop stays among, what the command leaves of the state when it
refuses and when it completes. -/

namespace Sys2Proof.Machine

/-! ### The two ways a command ends -/

/-- What raising InvalidInput leaves of a state, STATUS as a word (R217, R220). -/
theorem raiseCause_invalidInput (s : State) :
    raiseCause .invalidInput s = { s with status := 0x80000002#32 } := by
  rw [raiseCause, statusRaised_invalidInput]

/-- What completing without SKIP2 leaves of a state, STATUS as the statements write it (R25, R110). -/
theorem complete_false_eq (s : State) :
    complete false s = { s with status := doneStatus s.status } := by
  rw [complete, statusCompleted_false, doneStatus]

/-- A residue modulo a register's value is a word, so R0 holds it unchanged (R9). -/
theorem toInt_toWord_of_lt_toInt {z : Int} {w : Word} (h0 : 0 ≤ z) (hlt : z < w.toInt) :
    (toWord z).toInt = z := by
  have hmax : w.toInt ≤ maxWord := (isWord_toInt w).2
  exact toInt_toWord ⟨by simp only [minWord]; omega, by omega⟩

/-! ### The loop of R111 -/

/-- A running result among the residues stays among them: a round keeps it or replaces it by a product
modulo `m`. -/
theorem powModLoop_mem_Ico {m : Int} (hm : 1 ≤ m) (fuel : Nat) {r : Int} (aa b : Int)
    (hr : r ∈ Set.Ico 0 m) : powModLoop m fuel r aa b ∈ Set.Ico 0 m := by
  induction fuel generalizing r aa b with
  | zero => exact hr
  | succ fuel ih =>
    rw [powModLoop]
    split
    · apply ih
      split
      · exact ⟨mulmod_nonneg hm, mulmod_lt hm⟩
      · exact hr
    · exact hr

/-- `pow_mod` is among the residues for every base and exponent: it starts at `smod(1, m)` (R111). -/
theorem powMod_mem_Ico (a b : Int) {m : Int} (hm : 1 ≤ m) : powMod a b m ∈ Set.Ico 0 m := by
  apply powModLoop_mem_Ico hm
  split <;> constructor <;> omega

/-! ### The command -/

/-- A negative exponent or a modulus below 1 raises InvalidInput (R110). -/
theorem exec_powmod_of_invalid {s : State} (h : s.a1.toInt < 0 ∨ s.a2.toInt ≤ 0) :
    exec .powmod s = .next (raiseCause .invalidInput s) :=
  if_pos h

/-- On any other operands the power goes to R0 and the command completes (R110). -/
theorem exec_powmod_of_valid {s : State} (hexp : 0 ≤ s.a1.toInt) (hmod : 0 < s.a2.toInt) :
    exec .powmod s =
      .next (complete false (setR0 (powMod s.a0.toInt s.a1.toInt s.a2.toInt) s)) :=
  if_neg (not_or.mpr ⟨not_lt.mpr hexp, not_le.mpr hmod⟩)

/-! ### The statement -/

/-- Settles O9: refusal and completion as the two branches of the command, the value in R0 being a residue
and therefore a word. -/
theorem powmodCompletes : Obligations.PowmodCompletes := by
  refine ⟨rfl, fun s => ⟨fun hinvalid => ?_, fun hexp hmod => ?_⟩⟩
  · rw [exec_powmod_of_invalid hinvalid, raiseCause_invalidInput]
  · obtain ⟨hnonneg, hlt⟩ := powMod_mem_Ico s.a0.toInt s.a1.toInt hmod
    have hr0 := toInt_toWord_of_lt_toInt hnonneg hlt
    refine ⟨_, exec_powmod_of_valid hexp hmod, complete_false_eq _, hr0, ?_⟩
    rw [complete_r0, setR0_r0, hr0]
    exact ⟨hnonneg, hlt⟩

end Sys2Proof.Machine
end

section
/-! INVMOD (R120, R121): every coefficient its loop carries is a word, so R0 holds the one it answers
whole, in and out of the domain of R123. -/

namespace Sys2Proof.Machine

/-! ### The loop of R121 -/

/-- Half-step A keeps the coefficient `y` a word: it wraps a new one and leaves the old one alone. -/
theorem halfStepA_snd_isWord (a b x : Int) {y : Int} (hy : IsWord y) :
    IsWord (halfStepA a b x y).2 := by
  unfold halfStepA
  split
  · exact wrap32_isWord _
  · exact hy

/-- Half-step B keeps the coefficient `x` a word, as half-step A keeps `y`. -/
theorem halfStepB_snd_isWord (a b y : Int) {x : Int} (hx : IsWord x) :
    IsWord (halfStepB a b x y).2 := by
  unfold halfStepB
  split
  · exact wrap32_isWord _
  · exact hx

/-- From coefficients that are words the loop answers a word: `x`, `y`, or the wrapped `y + m`. -/
theorem invModLoop_isWord (m : Int) (n : Nat) (a b : Int) {x y : Int} (hx : IsWord x)
    (hy : IsWord y) : IsWord (invModLoop m n a b x y) := by
  induction n generalizing a b x y with
  | zero =>
    rw [invModLoop]
    split
    · exact hx
    · split
      · exact wrap32_isWord _
      · exact hy
  | succ n ih =>
    rw [invModLoop]
    exact ih _ _ (halfStepB_snd_isWord _ _ _ hx) (halfStepA_snd_isWord _ _ _ hy)

/-- `inv_mod` is a word for every operand and modulus: its coefficients start at 1 and 0 (R121). -/
theorem invMod_isWord (a m : Int) : IsWord (invMod a m) :=
  invModLoop_isWord m _ _ _ (by decide) (by decide)

/-! ### The command -/

/-- A modulus below 1 raises InvalidInput (R120). -/
theorem exec_invmod_of_invalid {s : State} (hmod : s.a1.toInt ≤ 0) :
    exec .invmod s = .next (raiseCause .invalidInput s) :=
  if_pos hmod

/-- On any other modulus the answer of the loop goes to R0 and the command completes (R120). -/
theorem exec_invmod_of_valid {s : State} (hmod : 0 < s.a1.toInt) :
    exec .invmod s = .next (complete false (setR0 (invMod s.a0.toInt s.a1.toInt) s)) :=
  if_neg (not_le.mpr hmod)

/-! ### The statement -/

/-- Settles O12: refusal and completion as the two branches of the command, the value in R0 being a word
by `invMod_isWord`. -/
theorem invmodCompletes : Obligations.InvmodCompletes := by
  refine ⟨decode_eq_ok_iff.mpr rfl, fun s => ⟨fun hmod => ?_, fun hmod => ?_⟩⟩
  · rw [exec_invmod_of_invalid hmod, raiseCause_invalidInput]
  · exact ⟨_, exec_invmod_of_valid hmod, complete_false_eq _, toInt_toWord (invMod_isWord _ _)⟩

end Sys2Proof.Machine
end

section
/-! ISPRIME and NEXTPRIME (R131 to R135): trial division as divisibility by the table primes, and the search
that ends on every word because it comes past 1. -/

namespace Sys2Proof.Machine

/-! ### Trial division -/

/-- By a divisor that is not 0, no remainder is left exactly on its multiples (R91). -/
theorem remT_eq_zero_iff_dvd {n q : Int} (hq : q ≠ 0) : remT n q = 0 ↔ q ∣ n := by
  rw [remT_of_ne hq, Int.dvd_iff_tmod_eq_zero]

/-- Trial division by a list in which no entry divides a later one: an entry is accepted as itself before a
divisor can refuse it, any other number exactly when no entry divides it (R131). -/
theorem trialDivide_eq_true_iff {n : Int} {qs : List Int} (hzero : 0 ∉ qs)
    (hindep : qs.Pairwise fun p q => ¬ p ∣ q) :
    trialDivide n qs = true ↔ n ∈ qs ∨ ∀ q ∈ qs, ¬ q ∣ n := by
  induction qs with
  | nil => simp [trialDivide]
  | cons q qs ih =>
    obtain ⟨hq, hzero⟩ := not_or.mp (mt List.mem_cons.mpr hzero)
    obtain ⟨hlater, hindep⟩ := List.pairwise_cons.mp hindep
    simp only [trialDivide, remT_eq_zero_iff_dvd (Ne.symm hq), List.mem_cons]
    by_cases heq : n = q
    · simp [heq]
    by_cases hdvd : q ∣ n
    · have hnotMem : n ∉ qs := fun hmem => hlater n hmem hdvd
      simp [heq, hdvd, hnotMem]
    · simp [heq, hdvd, ih hzero hindep]

theorem zero_notMem_primeRom : 0 ∉ primeRom := by decide

/-- No table prime divides another one that comes later (R29). -/
theorem primeRom_pairwise_not_dvd : primeRom.Pairwise fun p q => ¬ p ∣ q := by decide

/-- `is_prime` accepts the table primes and the words that no table prime divides (R131). -/
theorem isPrime_eq_true_iff (n : Int) :
    isPrime n = true ↔ n ∈ primeRom ∨ ∀ q ∈ primeRom, ¬ q ∣ n :=
  trialDivide_eq_true_iff zero_notMem_primeRom primeRom_pairwise_not_dvd

/-! ### The search for the next word accepted -/

/-- Counting up from anywhere, fewer than 2^32 increments reach any word (R134). -/
theorem exists_wrap32_add_eq (c : Int) {w : Int} (hw : IsWord w) :
    ∃ d : Nat, d < 2 ^ 32 ∧ wrap32 (c + d) = w := by
  have hnonneg : 0 ≤ (w - c) % 2 ^ 32 := Int.emod_nonneg _ (by decide)
  have hlt : (w - c) % 2 ^ 32 < 2 ^ 32 := Int.emod_lt_of_pos _ (by decide)
  refine ⟨((w - c) % 2 ^ 32).toNat, by omega, ?_⟩
  calc wrap32 (c + ((w - c) % 2 ^ 32).toNat)
      = wrap32 (c + (w - c) % 2 ^ 32) := by rw [Int.toNat_of_nonneg hnonneg]
    _ = wrap32 (c + (w - c)) := by exact_mod_cast Int.add_emod_bmod (w - c) (2 ^ 32)
    _ = w := by rw [add_sub_cancel, wrap32_of_isWord hw]

/-- Wrapping before an increment changes nothing of the wrapped result (R90). -/
theorem wrap32_wrap32_add (a b : Int) : wrap32 (wrap32 a + b) = wrap32 (a + b) :=
  Int.bmod_add_bmod

/-- With more fuel than the distance to the first word accepted, the search answers that word (R134). -/
theorem nextPrimeFrom_eq {fuel d : Nat} {c : Int} (hd : d < fuel)
    (haccept : isPrime (wrap32 (c + d)) = true)
    (hreject : ∀ j < d, isPrime (wrap32 (c + j)) = false) :
    nextPrimeFrom fuel (wrap32 c) = wrap32 (c + d) := by
  induction fuel generalizing c d with
  | zero => omega
  | succ fuel ih =>
    rw [nextPrimeFrom]
    cases d with
    | zero =>
      rw [Int.natCast_zero, add_zero] at haccept ⊢
      exact if_pos haccept
    | succ d =>
      have hfirst : isPrime (wrap32 c) = false := by simpa using hreject 0 (by omega)
      have hshift (j : Nat) : c + (j + 1 : Nat) = c + 1 + j := by push_cast; ring
      rw [hshift] at haccept ⊢
      rw [if_neg (ne_true_of_eq_false hfirst), wrap32_wrap32_add]
      exact ih (by omega) haccept fun j hj => hshift j ▸ hreject (j + 1) (by omega)

/-- From any start there is a first word that `is_prime` accepts, within 2^32 words: 1 is accepted, so the
least number of increments exists (R134). -/
theorem exists_first_isPrime (c : Int) :
    ∃ d : Nat, d < 2 ^ 32 ∧ isPrime (wrap32 (c + d)) = true ∧
      ∀ j < d, isPrime (wrap32 (c + j)) = false := by
  obtain ⟨d, hlt, hone⟩ := exists_wrap32_add_eq c (w := 1) (by decide)
  have haccept : isPrime (wrap32 (c + d)) = true := by rw [hone]; decide
  have hex : ∃ d : Nat, isPrime (wrap32 (c + d)) = true := ⟨d, haccept⟩
  exact ⟨Nat.find hex, (Nat.find_min' hex haccept).trans_lt hlt, Nat.find_spec hex,
    fun j hj => Bool.eq_false_of_not_eq_true (Nat.find_min hex hj)⟩

/-- `next_prime` is the first word accepted after its argument, in wrapping order; the bound of the search
does not cut it short (R134; log entry 12). -/
theorem nextPrime_spec (n : Int) :
    ∃ k : Nat, 1 ≤ k ∧ k ≤ 2 ^ 32 ∧ nextPrime n = wrap32 (n + k) ∧
      isPrime (wrap32 (n + k)) = true ∧
      ∀ j : Nat, 1 ≤ j → j < k → isPrime (wrap32 (n + j)) = false := by
  obtain ⟨d, hlt, haccept, hreject⟩ := exists_first_isPrime (n + 1)
  have hshift (j : Nat) : n + (j + 1 : Nat) = n + 1 + j := by push_cast; ring
  refine ⟨d + 1, by omega, by omega, ?_, by rwa [hshift], fun j hj hjd => ?_⟩
  · rw [hshift]
    exact nextPrimeFrom_eq hlt haccept hreject
  · obtain ⟨j, rfl⟩ := Nat.exists_eq_add_of_le' hj
    rw [hshift]
    exact hreject j (by omega)

/-! ### The commands -/

/-- ISPRIME has no branch that refuses (R132). -/
theorem exec_isprime (s : State) :
    exec .isprime s = .next (complete false (setR0 (truthWord (isPrime s.a0.toInt)) s)) :=
  rfl

/-- NEXTPRIME has no branch that refuses (R135). -/
theorem exec_nextprime (s : State) :
    exec .nextprime s = .next (complete false (setR0 (nextPrime s.a0.toInt) s)) :=
  rfl

/-- The truth words as R0 holds them (R131). -/
theorem toWord_truthWord (b : Bool) : toWord (truthWord b) = if b = true then 1#32 else 0#32 := by
  cases b <;> decide

/-! ### The statements -/

/-- Settles O16: the one branch of the command, its truth word by `isPrime_eq_true_iff`. -/
theorem isprimeCompletes : Obligations.IsprimeCompletes := by
  refine ⟨decode_eq_ok_iff.mpr rfl, fun s => ?_⟩
  rw [exec_isprime, complete_false_eq, setR0_status, setR0, toWord_truthWord]
  simp only [isPrime_eq_true_iff]

/-- Settles O18: the one branch of the command, its value by `nextPrime_spec`, a word because it is
wrapped. -/
theorem nextprimeCompletes : Obligations.NextprimeCompletes := by
  refine ⟨decode_eq_ok_iff.mpr rfl, fun s => ⟨_, exec_nextprime s, complete_false_eq _, ?_⟩⟩
  obtain ⟨k, hpos, hle, hvalue, hfirst⟩ := nextPrime_spec s.a0.toInt
  refine ⟨k, hpos, hle, ?_, hfirst⟩
  rw [complete_r0, setR0_r0, hvalue, toInt_toWord (wrap32_isWord _)]

end Sys2Proof.Machine
end

section
/-! PPTBUILD and PPTEXTRACT (R136 to R139): the table of a base, its length as a logarithm of PP_CEIL, and
the words the scan of a table answers. -/

namespace Sys2Proof.Machine

/-- A value at least 0 is a word when it is at most the largest one (R8). -/
theorem isWord_of_nonneg {z : Int} (h0 : 0 ≤ z) (hle : z ≤ maxWord) : IsWord z :=
  ⟨by simp only [minWord]; omega, hle⟩

/-! ### The powers up to PP_CEIL -/

/-- The powers that PP_CEIL admits, by their exponents (R136). -/
theorem pow_le_ppCeil_iff {p : Int} (hp : 2 ≤ p) (j : Nat) :
    p ^ j ≤ Config.ppCeil ↔ j ≤ Nat.log p.toNat 46340 := by
  obtain ⟨b, rfl⟩ := Int.eq_ofNat_of_zero_le (show 0 ≤ p by omega)
  rw [Int.toNat_natCast, Nat.le_log_iff_pow_le (by omega) (by decide), Config.ppCeil]
  exact_mod_cast Iff.rfl

/-- The base 2 has the most powers up to PP_CEIL, 2^0 to 2^15 (R136). -/
theorem log_ppCeil_le {p : Int} (hp : 2 ≤ p) : Nat.log p.toNat 46340 ≤ 15 :=
  calc Nat.log p.toNat 46340
      ≤ Nat.log 2 46340 := Nat.log_anti_left (by decide) (by omega)
    _ ≤ 15 := Nat.lt_succ_iff.mp (Nat.log_lt_of_lt_pow (by decide) (by decide))

/-- A power up to PP_CEIL reads back from its entry (R28, R136). -/
theorem toInt_toWord_pow {p : Int} (hp : 2 ≤ p) {j : Nat} (hj : p ^ j ≤ Config.ppCeil) :
    (toWord (p ^ j)).toInt = p ^ j := by
  have hpos : 0 < p ^ j := pow_pos (by omega) j
  exact toInt_toWord (isWord_of_nonneg hpos.le (hj.trans (by decide)))

/-! ### The table that is built -/

/-- `ppt_build` starts its loop at the power with exponent 0, the whole capacity ahead (R136). -/
theorem pptBuild_eq_loop (p : Int) (t : Table) : pptBuild p t = pptBuildLoop p 16 0 (p ^ 0) t := by
  rw [pow_zero]
  rfl

section

variable {p : Int} (hp : 2 ≤ p)
include hp

/-- With room for all powers up to PP_CEIL, the loop ends after the last of them, whatever the entries
(R136). -/
theorem pptBuildLoop_snd {room len : Nat} (t : Table) (hlen : len ≤ Nat.log p.toNat 46340 + 1)
    (hroom : Nat.log p.toNat 46340 + 1 ≤ len + room) :
    (pptBuildLoop p room len (p ^ len) t).2 = Nat.log p.toNat 46340 + 1 := by
  induction room generalizing len t with
  | zero => exact le_antisymm hlen hroom
  | succ room ih =>
    rw [pptBuildLoop]
    split
    · next hle =>
      have hlog := (pow_le_ppCeil_iff hp len).mp hle
      rw [← pow_succ]
      exact ih _ (by omega) (by omega)
    · next hgt =>
      have hlog := mt (pow_le_ppCeil_iff hp len).mpr hgt
      show len = _
      omega

/-- Each entry from the start of the loop up to the last power is that power, every other entry is left as
it was (R136, R28). -/
theorem pptBuildLoop_fst_getElem {room len : Nat} (t : Table)
    (hroom : Nat.log p.toNat 46340 + 1 ≤ len + room) {j : Nat} (hj : j < 16) :
    (pptBuildLoop p room len (p ^ len) t).1[j] =
      if len ≤ j ∧ j ≤ Nat.log p.toNat 46340 then toWord (p ^ j) else t[j] := by
  induction room generalizing len t with
  | zero => exact (if_neg (by omega)).symm
  | succ room ih =>
    rw [pptBuildLoop]
    split
    · next hle =>
      have hlog := (pow_le_ppCeil_iff hp len).mp hle
      rw [← pow_succ, ih _ (by omega), setEntry_getElem _ _ _ hj]
      by_cases heq : len = j
      · subst heq
        rw [if_neg (by omega), if_pos rfl, if_pos ⟨le_refl _, hlog⟩]
      · rw [if_neg heq]
        exact if_congr (by omega) rfl rfl
    · next hgt =>
      have hlog := mt (pow_le_ppCeil_iff hp len).mpr hgt
      exact (if_neg (by omega)).symm

/-- The length of the table of a base: one entry per power up to PP_CEIL (R136). -/
theorem pptBuild_snd (t : Table) : (pptBuild p t).2 = Nat.log p.toNat 46340 + 1 := by
  have hlog := log_ppCeil_le hp
  rw [pptBuild_eq_loop]
  exact pptBuildLoop_snd hp t (by omega) (by omega)

/-- The entries after the table of a base is built (R136, R28). -/
theorem pptBuild_fst_getElem (t : Table) {j : Nat} (hj : j < 16) :
    (pptBuild p t).1[j] = if j < (pptBuild p t).2 then toWord (p ^ j) else t[j] := by
  have hlog := log_ppCeil_le hp
  have hindex : 0 ≤ j ∧ j ≤ Nat.log p.toNat 46340 ↔ j < Nat.log p.toNat 46340 + 1 := by omega
  rw [pptBuild_snd hp, pptBuild_eq_loop, pptBuildLoop_fst_getElem hp t (by omega) hj]
  simp only [hindex]

/-- The length of the table of a base as PPT_LEN and R0 hold it: from 1 to 16, so a word (R28). -/
theorem toInt_toWord_pptBuild_snd (t : Table) :
    (toWord (pptBuild p t).2).toInt = 1 + Nat.log p.toNat 46340 := by
  have hlog := log_ppCeil_le hp
  rw [pptBuild_snd hp, toInt_toWord (isWord_of_nonneg (by omega) (by simp only [maxWord]; omega))]
  omega

/-- What `ppt_build` leaves in the table registers is the table of its base (R28, R136). -/
theorem tableOf_setTable_pptBuild (t : Table) (s : State) :
    (setTable (pptBuild p t).1 (pptBuild p t).2 s).TableOf p := by
  have hlog := log_ppCeil_le hp
  have hlen := toInt_toWord_pptBuild_snd hp t
  unfold State.TableOf
  rw [setTable_pptLen, setTable_ppt, hlen]
  refine ⟨hp, by omega, by omega, fun j hj => ?_, ?_⟩
  · have hle := (pow_le_ppCeil_iff hp j).mpr (by omega)
    refine ⟨?_, hle⟩
    rw [Fin.getElem_fin, pptBuild_fst_getElem hp t j.isLt, if_pos (by rw [pptBuild_snd hp]; omega),
      toInt_toWord_pow hp hle]
  · rw [← not_le, pow_le_ppCeil_iff hp]
    omega

end

/-! ### The scan of a table -/

/-- The reduced operand is a word for every table, those of unreachable states included: the operand
itself or a wrapped quotient (R138). -/
theorem pptExtract_fst_isWord (t : Table) (len : Int) {n : Int} (hn : IsWord n) :
    IsWord (pptExtract t len n).1 := by
  obtain ⟨heq, -⟩ | ⟨j, -, -, heq, -⟩ := extractFrom_cases t n (len - 1).toNat
  · rw [pptExtract, heq]
    exact hn
  · rw [pptExtract, heq]
    exact divT_isWord _ _

/-- The index removed is not above the length the scan starts from (R138). -/
theorem pptExtract_snd_le (t : Table) (len n : Int) :
    (pptExtract t len n).2 ≤ (len - 1).toNat := by
  obtain ⟨heq, -⟩ | ⟨j, -, hj, heq, -⟩ := extractFrom_cases t n (len - 1).toNat
  · rw [pptExtract, heq]
    exact Nat.zero_le _
  · rw [pptExtract, heq]
    exact hj

/-- The index removed is a word for every length a register holds (R138). -/
theorem pptExtract_snd_isWord (t : Table) (len : Word) (n : Int) :
    IsWord (pptExtract t len.toInt n).2 := by
  have hle := pptExtract_snd_le t len.toInt n
  obtain ⟨-, hlen⟩ := isWord_toInt len
  exact isWord_of_nonneg (by omega) (by simp only [maxWord] at hlen ⊢; omega)

/-! ### The commands -/

/-- A base below 2 raises InvalidInput (R137). -/
theorem exec_pptbuild_of_invalid {s : State} (hbase : s.a0.toInt < 2) :
    exec .pptbuild s = .next (raiseCause .invalidInput s) :=
  if_pos hbase

/-- On any other base the table is built, its length goes to R0 and the command completes (R137). -/
theorem exec_pptbuild_of_valid {s : State} (hbase : 2 ≤ s.a0.toInt) :
    exec .pptbuild s =
      .next (complete false (setR0 (pptBuild s.a0.toInt s.ppt).2
        (setTable (pptBuild s.a0.toInt s.ppt).1 (pptBuild s.a0.toInt s.ppt).2 s))) :=
  if_neg (not_lt.mpr hbase)

/-- PPTEXTRACT has no branch that refuses (R139). -/
theorem exec_pptextract (s : State) :
    exec .pptextract s =
      .next (complete false (setR1 (pptExtract s.ppt s.pptLen.toInt s.a0.toInt).2
        (setR0 (pptExtract s.ppt s.pptLen.toInt s.a0.toInt).1 s))) :=
  rfl

/-! ### The statements -/

/-- Settles O20: refusal and completion as the two branches of the command, length, powers and kept entries
by what `ppt_build` leaves. -/
theorem pptbuildCompletes : Obligations.PptbuildCompletes := by
  refine ⟨decode_eq_ok_iff.mpr rfl, fun s => ⟨fun hbase => ?_, fun hbase => ?_⟩⟩
  · rw [exec_pptbuild_of_invalid hbase, raiseCause_invalidInput]
  · have hlen := toInt_toWord_pptBuild_snd hbase s.ppt
    refine ⟨_, exec_pptbuild_of_valid hbase, complete_false_eq _, hlen,
      tableOf_setTable_pptBuild hbase s.ppt s, fun j hj => ?_⟩
    have hkept : (pptBuild s.a0.toInt s.ppt).2 ≤ j.val := by
      rw [complete_pptLen, setR0_pptLen, setTable_pptLen, hlen] at hj
      rw [pptBuild_snd hbase]
      omega
    rw [complete_ppt, setR0_ppt, setTable_ppt, Fin.getElem_fin,
      pptBuild_fst_getElem hbase s.ppt j.isLt, if_neg (not_lt.mpr hkept)]
    rfl

/-- Settles O21: the one branch of the command, both parts of its pair being words for every table. -/
theorem pptextractCompletes : Obligations.PptextractCompletes := by
  refine ⟨decode_eq_ok_iff.mpr rfl, fun s => ⟨_, exec_pptextract s, complete_false_eq _, ?_, ?_⟩⟩
  · exact toInt_toWord (pptExtract_fst_isWord _ _ (isWord_toInt s.a0))
  · exact toInt_toWord (pptExtract_snd_isWord s.ppt s.pptLen s.a0.toInt)

end Sys2Proof.Machine
end

section
/-! ACCADD and ACCCLR (R152 to R156): both paths of `acc_add` end in `acc_norm`, so the limbs written are in
range, and words, for operands in and out of the domain of R158. -/

namespace Sys2Proof.Machine

/-! ### Limbs in range -/

/-- Limbs in [0, 10⁹) are words, so registers hold them unchanged (R9, R27). -/
theorem toInt_toWord_of_limbPair {h l : Int} (hlimbs : LimbPair h l) :
    (toWord h).toInt = h ∧ (toWord l).toInt = l := by
  obtain ⟨hhi0, hhi, hlo0, hlo⟩ := hlimbs
  have hlimb : Config.limb ≤ maxWord := by decide
  exact ⟨toInt_toWord (isWord_of_nonneg hhi0 (hhi.le.trans hlimb)),
    toInt_toWord (isWord_of_nonneg hlo0 (hlo.le.trans hlimb))⟩

/-- The invariant of R27 for a state whose accumulator was just written, by the limbs written. -/
theorem limbsOk_setAcc {h l : Int} (hlimbs : LimbPair h l) (s : State) : (setAcc h l s).LimbsOk := by
  obtain ⟨hhi, hlo⟩ := toInt_toWord_of_limbPair hlimbs
  rw [State.LimbsOk, setAcc_accHi, setAcc_accLo, hhi, hlo]
  exact hlimbs

/-- `acc_norm` reduces both limbs last, whatever it is given (R152). -/
theorem accNorm_limbPair (hi lo : Int) : LimbPair (accNorm hi lo).1 (accNorm hi lo).2 := by
  have hlimb : 1 ≤ Config.limb := by decide
  exact ⟨smod_nonneg hlimb, smod_lt hlimb, smod_nonneg hlimb, smod_lt hlimb⟩

/-- The direct path of `acc_add` ends in `acc_norm` (R153). -/
theorem accAddDirect_limbPair (n d hi lo : Int) :
    LimbPair (accAddDirect n d hi lo).1 (accAddDirect n d hi lo).2 :=
  accNorm_limbPair _ _

/-- `acc_add` ends in the direct path, with or without rescaling (R153, R154). -/
theorem accAdd_limbPair (n d hi lo : Int) :
    LimbPair (accAdd n d hi lo).1 (accAdd n d hi lo).2 := by
  unfold accAdd
  split
  · exact accAddDirect_limbPair _ _ _ _
  · exact accAddDirect_limbPair n d hi lo

/-! ### The commands -/

/-- A denominator below 1 raises InvalidInput (R155). -/
theorem exec_accadd_of_invalid {s : State} (hden : s.a1.toInt ≤ 0) :
    exec .accadd s = .next (raiseCause .invalidInput s) :=
  if_pos hden

/-- On any other denominator the new limbs go to the accumulator and to R0, R1 and the command completes
(R155). -/
theorem exec_accadd_of_valid {s : State} (hden : 0 < s.a1.toInt) {h l : Int}
    (hadd : accAdd s.a0.toInt s.a1.toInt s.accHi.toInt s.accLo.toInt = (h, l)) :
    exec .accadd s = .next (complete false (setR1 l (setR0 h (setAcc h l s)))) := by
  obtain ⟨rfl, rfl⟩ := Prod.mk.inj hadd
  exact if_neg (not_le.mpr hden)

/-- ACCCLR has no branch that refuses (R156). -/
theorem exec_accclr (s : State) :
    exec .accclr s = .next (complete false (setR1 0 (setR0 0 (setAcc 0 0 s)))) :=
  rfl

/-! ### The statements -/

/-- Settles O24: refusal and completion as the two branches of the command, both limbs being in range and
therefore words. -/
theorem accaddCompletes : Obligations.AccaddCompletes := by
  refine ⟨decode_eq_ok_iff.mpr rfl, fun s => ⟨fun hden => ?_, fun hden => ?_⟩⟩
  · rw [exec_accadd_of_invalid hden, raiseCause_invalidInput]
  · have hlimbs := accAdd_limbPair s.a0.toInt s.a1.toInt s.accHi.toInt s.accLo.toInt
    rcases hadd : accAdd s.a0.toInt s.a1.toInt s.accHi.toInt s.accLo.toInt with ⟨h, l⟩
    rw [hadd] at hlimbs
    obtain ⟨hhi, hlo⟩ := toInt_toWord_of_limbPair hlimbs
    exact ⟨_, exec_accadd_of_valid hden hadd, complete_false_eq _, Prod.ext hhi hlo,
      limbsOk_setAcc hlimbs s⟩

/-- Settles O28: the one branch of the command, its four zeros as register words. -/
theorem accclrCompletes : Obligations.AccclrCompletes := by
  refine ⟨decode_eq_ok_iff.mpr rfl, fun s => ?_⟩
  rw [exec_accclr, complete_false_eq]
  rfl

end Sys2Proof.Machine
end

section
/-! NOP (R200): the completion with no result, so what it leaves of STATUS is all that it does. -/

namespace Sys2Proof.Machine

/-! ### The command -/

/-- NOP has no branch that refuses and nothing to compute before it completes (R200). -/
theorem exec_nop (s : State) : exec .nop s = .next (complete false s) :=
  rfl

/-! ### The statement -/

/-- Settles O8: the one branch of the command, the completed STATUS as `doneStatus` states it. -/
theorem nopCompletes : Obligations.NopCompletes := by
  refine ⟨decode_eq_ok_iff.mpr rfl, fun s => ?_⟩
  rw [exec_nop, complete_false_eq, doneStatus]

end Sys2Proof.Machine
end

section
/-! The causes (R215 to R220): a command refuses its operands before it writes anything or completes, so
STATUS tells which of the two happened, and a write to CMD ends in one of the same two ways. -/

namespace Sys2Proof.Machine

/-! ### STATUS at the two ends of a command -/

@[simp] theorem statusCause_statusRaised (c : Cause) : statusCause (statusRaised c) = causeCode c :=
  statusCause_packStatus c false false true

@[simp] theorem statusFault_statusRaised (c : Cause) : statusFault (statusRaised c) = true :=
  statusFault_packStatus c false false true

@[simp] theorem statusCause_statusCompleted (old : Word) (skip2 : Bool) :
    statusCause (statusCompleted old skip2) = 0 :=
  statusCause_packStatus .none true skip2 (statusFault old)

@[simp] theorem statusFault_statusCompleted (old : Word) (skip2 : Bool) :
    statusFault (statusCompleted old skip2) = statusFault old :=
  statusFault_packStatus .none true skip2 (statusFault old)

/-- The three words that STATUS can hold after a raised cause (R220). -/
theorem statusRaised_eq_of_ne_none {c : Cause} (hc : c ≠ .none) :
    statusRaised c = 0x80000001#32 ∨ statusRaised c = 0x80000002#32 ∨
      statusRaised c = 0x80000003#32 := by
  cases c with
  | none => exact absurd rfl hc
  | illegalCommand => exact .inl statusRaised_illegalCommand
  | invalidInput => exact .inr (.inl statusRaised_invalidInput)
  | outOfRange => exact .inr (.inr statusRaised_outOfRange)

/-! ### DIGIT9 -/

/-- A negative index raises InvalidInput (R170). -/
theorem exec_digit9_of_invalid {s : State} (hneg : s.a0.toInt < 0) :
    exec .digit9 s = .next (raiseCause .invalidInput s) :=
  if_pos hneg

/-- An index above INDEX_MAX raises OutOfRange (R218). -/
theorem exec_digit9_of_outOfRange {s : State} (hmax : Config.indexMax < s.a0.toInt) :
    exec .digit9 s = .next (raiseCause .outOfRange s) := by
  have hnonneg : ¬ s.a0.toInt < 0 := by rw [Config.indexMax] at hmax; omega
  exact (if_neg hnonneg).trans (if_pos hmax)

/-- On an accepted index the command writes table, limbs and results and completes (R170, R178). -/
theorem exec_digit9_of_valid {s : State} (hindex : IndexOk s.a0.toInt) :
    exec .digit9 s =
      .next (complete (digit9 s.a0.toInt s.ppt).skipped
        (setR1 (termCount s.a0.toInt) (setR0 (digit9 s.a0.toInt s.ppt).hi
          (setAcc (digit9 s.a0.toInt s.ppt).hi (digit9 s.a0.toInt s.ppt).lo
            (setTable (digit9 s.a0.toInt s.ppt).table (digit9 s.a0.toInt s.ppt).len s))))) := by
  obtain ⟨hnonneg, hmax⟩ := hindex
  exact (if_neg (not_lt.mpr hnonneg)).trans (if_neg (not_lt.mpr hmax))

/-- The number of terms on every word at least 0: the quotient is below 2^31, so it does not wrap, though
the dividend need not be a word (R171). -/
theorem termCount_eq_ediv {index : Int} (h0 : 0 ≤ index) (hword : index ≤ maxWord) :
    termCount index = (index + 19) * 100 / 113 := by
  have hdividend : 0 ≤ (index + 19) * 100 := by omega
  have hquotient : IsWord ((index + 19) * 100 / 113) :=
    isWord_of_nonneg (by omega) (by rw [maxWord] at hword ⊢; omega)
  simp only [termCount, Config.nOffset, Config.nNum, Config.nDen]
  rw [divT_of_ne (by decide), Int.tdiv_eq_ediv_of_nonneg hdividend, wrap32_of_isWord hquotient]

/-- INDEX_MAX is the last index whose primes stay within PP_CEIL (R218). -/
theorem indexMax_lt_iff_ppCeil_lt {index : Int} (h0 : 0 ≤ index) (hword : index ≤ maxWord) :
    17436 < index ↔ Config.ppCeil < 3 * termCount index := by
  rw [termCount_eq_ediv h0 hword, Config.ppCeil]
  omega

/-! ### What a command can do -/

/-- The table of R217, row by row: the commands with a row refuse its operands, the others refuse none. -/
theorem exec_of_invalidOperands {i : Instr} {s : State} (hinvalid : InvalidOperands s i) :
    exec i s = .next (raiseCause .invalidInput s) := by
  cases i with
  | powmod => exact exec_powmod_of_invalid hinvalid
  | invmod => exact exec_invmod_of_invalid hinvalid
  | pptbuild => exact exec_pptbuild_of_invalid hinvalid
  | accadd => exact exec_accadd_of_invalid hinvalid
  | digit9 => exact exec_digit9_of_invalid hinvalid
  | nop | isprime | nextprime | pptextract | accclr => exact hinvalid.elim

/-- On every other operand a command completes, from a state in which it has not yet touched STATUS. -/
theorem exec_of_accepted {i : Instr} {s : State} (hvalid : ¬ InvalidOperands s i)
    (hrange : ¬ (i = .digit9 ∧ 17436 < s.a0.toInt)) :
    ∃ skip2 u, exec i s = .next (complete skip2 u) ∧ u.status = s.status := by
  cases i with
  | nop => exact ⟨_, _, exec_nop s, rfl⟩
  | powmod =>
    obtain ⟨hexp, hmod⟩ := not_or.mp hvalid
    exact ⟨_, _, exec_powmod_of_valid (not_lt.mp hexp) (not_le.mp hmod), rfl⟩
  | invmod => exact ⟨_, _, exec_invmod_of_valid (not_le.mp hvalid), rfl⟩
  | isprime => exact ⟨_, _, exec_isprime s, rfl⟩
  | nextprime => exact ⟨_, _, exec_nextprime s, rfl⟩
  | pptbuild => exact ⟨_, _, exec_pptbuild_of_valid (not_lt.mp hvalid), rfl⟩
  | pptextract => exact ⟨_, _, exec_pptextract s, rfl⟩
  | accadd => exact ⟨_, _, exec_accadd_of_valid (not_le.mp hvalid) Prod.mk.eta.symm, rfl⟩
  | accclr => exact ⟨_, _, exec_accclr s, rfl⟩
  | digit9 =>
    have hmax : s.a0.toInt ≤ 17436 := not_lt.mp fun hlt => hrange ⟨rfl, hlt⟩
    exact ⟨_, _, exec_digit9_of_valid ⟨not_lt.mp hvalid, hmax⟩, rfl⟩

/-- All that a command can do, the three cases excluding each other: it raises InvalidInput, it raises
OutOfRange, or it completes (R217, R218). -/
theorem exec_cases (i : Instr) (s : State) :
    (InvalidOperands s i ∧ ¬ (i = .digit9 ∧ 17436 < s.a0.toInt) ∧
      exec i s = .next (raiseCause .invalidInput s)) ∨
    (¬ InvalidOperands s i ∧ (i = .digit9 ∧ 17436 < s.a0.toInt) ∧
      exec i s = .next (raiseCause .outOfRange s)) ∨
    (¬ InvalidOperands s i ∧ ¬ (i = .digit9 ∧ 17436 < s.a0.toInt) ∧
      ∃ skip2 u, exec i s = .next (complete skip2 u) ∧ u.status = s.status) := by
  by_cases hrange : i = .digit9 ∧ 17436 < s.a0.toInt
  · obtain ⟨rfl, hmax⟩ := hrange
    have hvalid : ¬ s.a0.toInt < 0 := by omega
    exact .inr (.inl ⟨hvalid, ⟨rfl, hmax⟩, exec_digit9_of_outOfRange hmax⟩)
  · by_cases hinvalid : InvalidOperands s i
    · exact .inl ⟨hinvalid, hrange, exec_of_invalidOperands hinvalid⟩
    · exact .inr (.inr ⟨hinvalid, hrange, exec_of_accepted hinvalid hrange⟩)

/-- All that a write to CMD can do: with the word stored, a cause is raised, or a command completes that has
not yet touched STATUS (R54, R220). -/
theorem hostWrite_cmdAddr_cases (w : Word) (s : State) :
    (∃ c, c ≠ .none ∧ hostWrite cmdAddr w s = .next (raiseCause c { s with cmd := w })) ∨
    (∃ skip2 u, hostWrite cmdAddr w s = .next (complete skip2 u) ∧ u.status = s.status) := by
  rw [hostWrite_cmdAddr]
  obtain ⟨i, -, hrun⟩ | ⟨-, -, hrun⟩ := runCommand_cases w { s with cmd := w }
  · rw [hrun]
    obtain ⟨-, -, hexec⟩ | ⟨-, -, hexec⟩ | ⟨-, -, hcompletes⟩ := exec_cases i { s with cmd := w }
    · exact .inl ⟨.invalidInput, nofun, hexec⟩
    · exact .inl ⟨.outOfRange, nofun, hexec⟩
    · exact .inr hcompletes
  · exact .inl ⟨.illegalCommand, nofun, hrun⟩

/-! ### The statements -/

/-- Settles O46: the cause in each of the three cases of `exec_cases`, and INDEX_MAX as the bound of
PP_CEIL. -/
theorem causesExactlyAsTheOperandsSay : Obligations.CausesExactlyAsTheOperandsSay := by
  intro i s t hexec
  have hbound := fun h0 => indexMax_lt_iff_ppCeil_lt h0 (isWord_toInt s.a0).2
  obtain ⟨hinvalid, hrange, hend⟩ | ⟨hvalid, hrange, hend⟩ |
    ⟨hvalid, hrange, skip2, u, hend, -⟩ := exec_cases i s
  all_goals obtain rfl := Host.Outcome.next.inj (hend.symm.trans hexec)
  · rw [raiseCause_status, statusCause_statusRaised]
    exact ⟨iff_of_true rfl hinvalid, iff_of_false (by decide) hrange, hbound, .inr (.inl rfl),
      fun _ => rfl⟩
  · rw [raiseCause_status, statusCause_statusRaised]
    exact ⟨iff_of_false (by decide) hvalid, iff_of_true rfl hrange, hbound, .inr (.inr rfl),
      fun _ => rfl⟩
  · rw [complete_status, statusCause_statusCompleted]
    exact ⟨iff_of_false (by decide) hvalid, iff_of_false (by decide) hrange, hbound, .inl rfl,
      fun hne => absurd rfl hne⟩

/-- Settles O47: a raised cause writes STATUS over the stored word, and a completion records no cause and
keeps FAULT. -/
theorem raisedCauseChangesOnlyCmdAndStatus : Obligations.RaisedCauseChangesOnlyCmdAndStatus := by
  intro w s t hwrite
  obtain ⟨c, hc, hend⟩ | ⟨skip2, u, hend, hstatus⟩ := hostWrite_cmdAddr_cases w s
  all_goals obtain rfl := Host.Outcome.next.inj (hend.symm.trans hwrite)
  · exact ⟨fun _ => ⟨rfl, statusRaised_eq_of_ne_none hc⟩, fun _ => statusFault_statusRaised c⟩
  · rw [complete_status, statusCause_statusCompleted, statusFault_statusCompleted, hstatus]
    exact ⟨fun hne => absurd rfl hne, id⟩

end Sys2Proof.Machine
end

section
/-! The arithmetic primitives (R90 to R94): when the modular multiplier is exact, and the laws of the truncated
quotient and remainder on words. -/

namespace Sys2Proof.Machine

/-! ### The modular multiplier -/

/-- Where the product does not wrap, `mulmod` is exact (R94 fact 1). -/
theorem mulmod_of_isWord {a b m : Int} (hm : 1 ≤ m) (hword : IsWord (a * b)) :
    mulmod a b m = a * b % m := by
  rw [mulmod_eq hm, wrap32_of_isWord hword]

/-- Wrapping keeps the residue modulo every divisor of 2^32 (R90). -/
theorem wrap32_emod_of_dvd {m : Int} (hdvd : m ∣ 2 ^ 32) (z : Int) : wrap32 z % m = z % m := by
  rw [← Int.emod_emod_of_dvd (wrap32 z) hdvd, wrap32_emod, Int.emod_emod_of_dvd z hdvd]

/-- Modulo a power of two `mulmod` is exact on all integers (R94 fact 2). -/
theorem mulmod_two_pow (a b : Int) {e : Nat} (he : e ≤ 32) : mulmod a b (2 ^ e) = a * b % 2 ^ e := by
  rw [mulmod_eq (one_le_pow₀ (by decide)), wrap32_emod_of_dvd (pow_dvd_pow 2 he)]

/-! ### Quotient and remainder -/

/-- The truncated remainder is smaller than the divisor (R91). -/
theorem abs_tmod_lt (a : Int) {b : Int} (hb : b ≠ 0) : |a.tmod b| < |b| := by
  have hlt : a.natAbs % b.natAbs < b.natAbs := Nat.mod_lt _ (Int.natAbs_pos.mpr hb)
  rw [Int.abs_eq_natAbs, Int.abs_eq_natAbs, Int.natAbs_tmod]
  exact_mod_cast hlt

/-- A truncated quotient of words is a word but for the one overflow of R91. -/
theorem tdiv_isWord {a b : Int} (ha : IsWord a) (hover : ¬ (a = minWord ∧ b = -1)) :
    IsWord (a.tdiv b) := by
  obtain ⟨hlow, hhigh⟩ := ha
  simp only [IsWord, minWord, maxWord] at *
  have habs : (a.tdiv b).natAbs = a.natAbs / b.natAbs := Int.natAbs_tdiv a b
  have hle : a.natAbs / b.natAbs ≤ a.natAbs := Nat.div_le_self _ _
  refine ⟨by omega, ?_⟩
  by_contra hbig
  have hbase : b.natAbs ≤ 1 := by
    by_contra htwo
    have : a.natAbs / b.natAbs ≤ a.natAbs / 2 := Nat.div_le_div_left (by omega) (by decide)
    omega
  obtain rfl | rfl | rfl : b = 0 ∨ b = 1 ∨ b = -1 := by omega
  · rw [Int.tdiv_zero] at hbig
    omega
  · rw [Int.tdiv_one] at hbig
    omega
  · omega

/-! ### The statements -/

/-- Settles O43: a product within the words does not wrap, and a power of two up to 2^30 divides 2^32. -/
theorem mulmodExactInSafeZoneAndForPowersOfTwo :
    Obligations.MulmodExactInSafeZoneAndForPowersOfTwo :=
  ⟨fun _ _ _ hm _ hword => mulmod_of_isWord hm hword,
    fun a b _ he => mulmod_two_pow a b (he.trans (by decide))⟩

/-- Settles O44: the laws of the truncated division of the integers, its quotient a word but for the one
overflowing pair. -/
theorem truncatedDivisionLaws : Obligations.TruncatedDivisionLaws := by
  intro a b ha _ hb
  rw [remT_of_ne hb, divT_of_ne hb]
  refine ⟨abs_tmod_lt a hb, fun hnonneg => Int.tmod_nonneg b hnonneg, fun hnonpos => ?_,
    fun hover => ?_, ?_⟩
  · have hneg : 0 ≤ (-a).tmod b := Int.tmod_nonneg b (by omega)
    rw [Int.neg_tmod] at hneg
    omega
  · rw [wrap32_of_isWord (tdiv_isWord ha hover), Int.mul_tdiv_add_tmod]
  · rintro ⟨rfl, rfl⟩
    decide

end Sys2Proof.Machine
end

section
/-! The encodings of 30_encoding.md and the platform's bytes: command words, transaction records (R74) and the
little-endian view of a word (R56, R57). -/

namespace Sys2Proof.Machine

/-! ### Command words -/

/-- The well-formedness check of words reads the two fields of R70. -/
theorem commandWordWf_iff (w : Word) :
    commandWordWf w = true ↔ reservedField w = 0 ∧ (opcodeField w).toNat < 0x0A := by
  rw [commandWordWf, Bool.and_eq_true, beq_iff_eq, decide_eq_true_iff, ← Nat.lt_succ_iff]
  rfl

/-- The command words by their fields (R71). -/
theorem exists_decode_iff (w : Word) :
    (∃ i, decode w = .ok i) ↔ reservedField w = 0 ∧ (opcodeField w).toNat < 0x0A := by
  simp only [decode_eq_ok_iff, eq_encode_iff, exists_and_left, exists_opcodeOf_eq_iff]

/-! ### Transaction records -/

/-- The three fields of a record make up its 40 bits (R74). -/
theorem record_eq_append (r : BitVec 40) :
    r.extractLsb 39 39 ++ r.extractLsb 38 32 ++ r.extractLsb 31 0 = r := by
  have hhigh : r.extractLsb' 39 1 ++ r.extractLsb' 32 7 = r.extractLsb' 32 8 :=
    BitVec.extractLsb'_append_extractLsb'_eq_extractLsb' rfl
  have hall : r.extractLsb' 32 8 ++ r.extractLsb' 0 32 = r.extractLsb' 0 40 :=
    BitVec.extractLsb'_append_extractLsb'_eq_extractLsb' rfl
  show r.extractLsb' 39 1 ++ r.extractLsb' 32 7 ++ r.extractLsb' 0 32 = r
  rw [hhigh, hall, BitVec.extractLsb'_eq_self]

/-- The write bit of a record (R74). -/
theorem getLsbD_record (we : BitVec 1) (addr : Address) (v : Word) :
    (we ++ addr ++ v).getLsbD 39 = we.getLsbD 0 := by
  rw [BitVec.getLsbD_append, if_neg (by decide), BitVec.getLsbD_append, if_neg (by decide)]

/-- The address field of a record (R74). -/
theorem extractLsb_record_addr (we : BitVec 1) (addr : Address) (v : Word) :
    (we ++ addr ++ v).extractLsb 38 32 = addr :=
  (BitVec.extractLsb'_append_eq_of_le (le_refl 32)).trans BitVec.extractLsb'_append_eq_right

/-- The data field of a record (R74). -/
theorem extractLsb_record_data (we : BitVec 1) (addr : Address) (v : Word) :
    (we ++ addr ++ v).extractLsb 31 0 = v :=
  BitVec.extractLsb'_append_eq_right

/-- A record as a number: its fields at their places (R74). -/
theorem toNat_record (we : BitVec 1) (addr : Address) (v : Word) :
    (we ++ addr ++ v).toNat = (we.toNat * 2 ^ 7 + addr.toNat) * 2 ^ 32 + v.toNat := by
  rw [BitVec.toNat_append, ← Nat.shiftLeft_add_eq_or_of_lt v.isLt, BitVec.toNat_append,
    ← Nat.shiftLeft_add_eq_or_of_lt addr.isLt, Nat.shiftLeft_eq, Nat.shiftLeft_eq]

/-- The top field of a record is its write bit (R74). -/
theorem extractLsb_record_we (r : BitVec 40) : r.extractLsb 39 39 = BitVec.ofBool (r.getLsbD 39) := by
  ext i hi
  obtain rfl : i = 0 := by omega
  simp

/-- A record is what its fields make up, its write bit known (R74). -/
theorem record_eq_of_we {r : BitVec 40} {we : BitVec 1} (hwe : BitVec.ofBool (r.getLsbD 39) = we) :
    we ++ r.extractLsb 38 32 ++ r.extractLsb 31 0 = r := by
  rw [← hwe, ← extractLsb_record_we, record_eq_append]

theorem encodeRecord_read (addr : Address) :
    encodeRecord (.read addr) = some ((0 : BitVec 1) ++ addr ++ (0 : Word)) := rfl

theorem encodeRecord_write (addr : Address) (v : Word) :
    encodeRecord (.write addr v) = some ((1 : BitVec 1) ++ addr ++ v) := rfl

/-- What a record with its write bit set stands for (R74). -/
theorem decodeRecord_of_write {r : BitVec 40} (hwe : r.getLsbD 39 = true) :
    decodeRecord r = .ok (.write (r.extractLsb 38 32) (r.extractLsb 31 0)) := by
  simp only [decodeRecord, recordWf, hwe, Bool.true_or, if_true]

/-- What a record with its write bit clear and no data stands for (R74). -/
theorem decodeRecord_of_read {r : BitVec 40} (hwe : r.getLsbD 39 = false)
    (hdata : r.extractLsb 31 0 = 0) : decodeRecord r = .ok (.read (r.extractLsb 38 32)) := by
  simp only [decodeRecord, recordWf, hwe, hdata, Bool.false_or, beq_self_eq_true, if_true,
    Bool.false_eq_true, if_false]

/-- A record of a read with data is refused (log entry 9). -/
theorem decodeRecord_of_readWithData {r : BitVec 40} (hwe : r.getLsbD 39 = false)
    (hdata : r.extractLsb 31 0 ≠ 0) : decodeRecord r = .error .readWithData := by
  have hwf : recordWf r = false := by
    rw [recordWf, hwe, Bool.false_or, beq_eq_false_iff_ne]
    exact hdata
  simp only [decodeRecord, hwf, Bool.false_eq_true, if_false]

/-- The decoder of records reads back what was encoded (R74). -/
theorem decodeRecord_encodeRecord {ev : HostEvent} {r : BitVec 40} (h : encodeRecord ev = some r) :
    decodeRecord r = .ok ev := by
  cases ev with
  | read addr =>
    rw [encodeRecord_read, Option.some.injEq] at h
    rw [← h, decodeRecord_of_read (getLsbD_record 0 addr 0) (extractLsb_record_data 0 addr 0),
      extractLsb_record_addr]
  | write addr v =>
    rw [encodeRecord_write, Option.some.injEq] at h
    rw [← h, decodeRecord_of_write (getLsbD_record 1 addr v), extractLsb_record_addr,
      extractLsb_record_data]
  | reset => cases h

/-- A record that is read as a transaction is that transaction's record (R74). -/
theorem encodeRecord_of_decodeRecord {ev : HostEvent} {r : BitVec 40}
    (h : decodeRecord r = .ok ev) : encodeRecord ev = some r := by
  cases hwe : r.getLsbD 39 with
  | true =>
    rw [decodeRecord_of_write hwe] at h
    obtain rfl := Except.ok.inj h
    rw [encodeRecord_write]
    rw [record_eq_of_we (by rw [hwe]; rfl)]
  | false =>
    by_cases hdata : r.extractLsb 31 0 = 0
    · rw [decodeRecord_of_read hwe hdata] at h
      obtain rfl := Except.ok.inj h
      rw [encodeRecord_read, ← hdata, record_eq_of_we (by rw [hwe]; rfl)]
    · rw [decodeRecord_of_readWithData hwe hdata] at h
      cases h

/-! ### The platform's bytes -/

/-- The four little-endian bytes of a word, put together again, are the word (R56). -/
theorem bytes_append (w : Word) :
    w.extractLsb 31 24 ++ w.extractLsb 23 16 ++ w.extractLsb 15 8 ++ w.extractLsb 7 0 = w := by
  have hupper : w.extractLsb' 24 8 ++ w.extractLsb' 16 8 = w.extractLsb' 16 16 :=
    BitVec.extractLsb'_append_extractLsb'_eq_extractLsb' rfl
  have hmiddle : w.extractLsb' 16 16 ++ w.extractLsb' 8 8 = w.extractLsb' 8 24 :=
    BitVec.extractLsb'_append_extractLsb'_eq_extractLsb' rfl
  have hall : w.extractLsb' 8 24 ++ w.extractLsb' 0 8 = w.extractLsb' 0 32 :=
    BitVec.extractLsb'_append_extractLsb'_eq_extractLsb' rfl
  show w.extractLsb' 24 8 ++ w.extractLsb' 16 8 ++ w.extractLsb' 8 8 ++ w.extractLsb' 0 8 = w
  rw [hupper, hmiddle, hall, BitVec.extractLsb'_eq_self]

/-- The byte addresses that reach the block are those of its 128 words (R56, R57). -/
theorem wordAddr_eq_some_iff (n : Nat) (addr : Address) :
    wordAddr n = some addr ↔ n = Config.base + 4 * addr.toNat := by
  have hlt := addr.isLt
  unfold wordAddr
  split
  · next h =>
    obtain ⟨hbase, hend, halign⟩ := h
    rw [Option.some.injEq, ← BitVec.toNat_inj, BitVec.toNat_ofNat]
    omega
  · next h =>
    refine iff_of_false nofun ?_
    rintro rfl
    exact h ⟨by omega, by omega, by omega⟩

@[simp] theorem wordAddr_base_add (addr : Address) :
    wordAddr (Config.base + 4 * addr.toNat) = some addr :=
  (wordAddr_eq_some_iff _ addr).mpr rfl

/-! ### The statements -/

/-- Settles O1: the decoder inverts the encoder, and the check of words reads the same two fields. -/
theorem decodesExactlyTheTenWords : Obligations.DecodesExactlyTheTenWords := by
  refine ⟨fun w i => decode_eq_ok_iff, fun w => ?_, ?_⟩
  · rw [commandWordWf_iff, exists_decode_iff]
  · decide

/-- Settles O2: the seven words evaluated. -/
theorem tableWordsDecodeAsTheTableSays : Obligations.TableWordsDecodeAsTheTableSays :=
  ⟨rfl, rfl, rfl, rfl, rfl, rfl, rfl⟩

/-- Settles O4: the two directions of the round trip, and the record as the number of its fields. -/
theorem transactionRecordsRoundTrip : Obligations.TransactionRecordsRoundTrip := by
  refine ⟨fun ev r => ⟨decodeRecord_encodeRecord, encodeRecord_of_decodeRecord⟩,
    fun addr r h => ?_, fun addr v r h => ?_, fun r hread hdata => ?_⟩
  · rw [encodeRecord_read, Option.some.injEq] at h
    rw [← h, toNat_record]
    simp
  · rw [encodeRecord_write, Option.some.injEq] at h
    rw [← h, toNat_record]
    simp
  · have hbit : r.getLsbD 39 = false := Nat.testBit_lt_two_pow hread
    refine decodeRecord_of_readWithData hbit fun hzero => hdata ?_
    have := congrArg BitVec.toNat hzero
    rwa [BitVec.extractLsb_toNat, Nat.shiftRight_zero] at this

/-- Settles O57: the addresses by `wordAddr_eq_some_iff`, the bytes by their definition, and a word as its
four bytes. -/
theorem platformBytesAreLittleEndian : Obligations.PlatformBytesAreLittleEndian := by
  refine ⟨wordAddr_eq_some_iff, fun s addr => ?_, fun addr b0 b1 b2 b3 => ?_, fun w rest => ?_⟩
  · rw [platformRead, wordAddr_base_add]
    rfl
  · rw [platformWrite, wordAddr_base_add]
    rfl
  · rw [wordOfBytes, bytes_append]

end Sys2Proof.Machine
end

section
/-! One step of the block (R54, R59, R240): what it does with each event, the transactions of a script line run one
after another (R75, R76), reading after a store (R52, R53), and the FAULT bit over all events (R25). -/

namespace Sys2Proof.Machine

/-! ### Reading -/

section

variable (s : State)

/-- Taking an event leaves the register space as it is. -/
@[simp] theorem readAddr_takeEvent (rest : List HostEvent) (addr : Address) :
    readAddr (takeEvent rest s) addr = readAddr s addr := by
  unfold readAddr
  cases regAt addr with
  | none => rfl
  | some r => cases r <;> rfl

/-- A read of a register's address (R52). -/
@[simp] theorem readAddr_addressOf (r : RegName) : readAddr s (addressOf r) = readReg s r := by
  simp only [readAddr, regAt_addressOf]

/-- Two registers at one address are one register (R51). -/
theorem addressOf_inj {r r' : RegName} : addressOf r = addressOf r' ↔ r = r' := by
  refine ⟨fun h => ?_, congrArg addressOf⟩
  have hmap := congrArg regAt h
  rwa [regAt_addressOf, regAt_addressOf, Option.some.injEq] at hmap

/-- A state that differs in one register reads differently at that register's address alone. -/
theorem readAddr_of_readReg {t : State} {r₀ : RegName} {v : Word}
    (hreg : ∀ r, readReg t r = if r = r₀ then v else readReg s r) (b : Address) :
    readAddr t b = if b = addressOf r₀ then v else readAddr s b := by
  cases hb : regAt b with
  | none =>
    have hne : b ≠ addressOf r₀ := by
      rintro rfl
      rw [regAt_addressOf] at hb
      cases hb
    rw [if_neg hne, readAddr_of_regAt_none t hb, readAddr_of_regAt_none s hb]
  | some r =>
    obtain rfl := addressOf_regAt hb
    rw [readAddr_addressOf, readAddr_addressOf, hreg]
    exact if_congr addressOf_inj.symm rfl rfl

variable (v : Word) (b : Address)

theorem readAddr_with_cmd :
    readAddr { s with cmd := v } b = if b = addressOf .cmd then v else readAddr s b :=
  readAddr_of_readReg s (fun r => by cases r <;> rfl) b

theorem readAddr_with_a0 :
    readAddr { s with a0 := v } b = if b = addressOf .a0 then v else readAddr s b :=
  readAddr_of_readReg s (fun r => by cases r <;> rfl) b

theorem readAddr_with_a1 :
    readAddr { s with a1 := v } b = if b = addressOf .a1 then v else readAddr s b :=
  readAddr_of_readReg s (fun r => by cases r <;> rfl) b

theorem readAddr_with_a2 :
    readAddr { s with a2 := v } b = if b = addressOf .a2 then v else readAddr s b :=
  readAddr_of_readReg s (fun r => by cases r <;> rfl) b

/-- An address is writable, or at or above STATUS and outside the operand registers (R51, R53). -/
theorem address_cases (a : Address) :
    (a = addressOf .cmd ∨ a = addressOf .a0 ∨ a = addressOf .a1 ∨ a = addressOf .a2) ∨
      a.toNat = 0x01 ∨ 0x05 ≤ a.toNat := by
  revert a; decide

end

/-! ### A step by its event -/

/-- Every host write answers a next state (R54, R251). -/
theorem exists_hostWrite_eq_next (addr : Address) (v : Word) (s : State) :
    ∃ t, hostWrite addr v s = .next t := by
  by_cases hcmd : addr = cmdAddr
  · subst hcmd
    obtain ⟨c, -, h⟩ | ⟨skip2, u, h, -⟩ := hostWrite_cmdAddr_cases v s
    · exact ⟨_, h⟩
    · exact ⟨_, h⟩
  · exact ⟨_, hostWrite_of_ne_cmdAddr s v hcmd⟩

section

variable {s : State} {rest : List HostEvent}

theorem step_of_nil (h : s.pending = []) : step s = .next s := by
  simp only [step, h]

theorem step_of_read {addr : Address} (h : s.pending = .read addr :: rest) :
    step s = .next { s with pending := rest, returned := some (readAddr s addr) } := by
  simp only [step, h, hostRead, readAddr_takeEvent]
  rfl

theorem step_of_write {addr : Address} {v : Word} (h : s.pending = .write addr v :: rest) :
    step s = hostWrite addr v { s with pending := rest, returned := none } := by
  simp only [step, h]
  rfl

theorem step_of_reset (h : s.pending = .reset :: rest) :
    step s = .next { State.reset with pending := rest } := by
  simp only [step, h]
  rfl

/-- A command word written to CMD is stored and its command is run (R54). -/
theorem hostWrite_cmdAddr_of_decode {w : Word} {i : Instr} (hdecode : decode w = .ok i) :
    hostWrite cmdAddr w s = exec i { s with cmd := w } := by
  rw [hostWrite_cmdAddr]
  simp only [runCommand, hdecode]

end

/-! ### Several steps -/

/-- A machine's run of one step is its step. -/
theorem run_one (M : Host.Core) (s : M.State) : M.run 1 s = M.step s := by
  rw [Host.Core.run]
  cases M.step s <;> rfl

/-- A machine's run whose first step answers a state goes on from that state. -/
theorem run_succ (M : Host.Core) {s t : M.State} (h : M.step s = .next t) (k : Nat) :
    M.run (k + 1) s = M.run k t := by
  rw [Host.Core.run, h]

theorem core_run_one (s : State) : core.run 1 s = step s :=
  run_one core s

theorem core_run_succ {s t : State} (h : step s = .next t) (k : Nat) :
    core.run (k + 1) s = core.run k t :=
  run_succ core h k

section

variable {s : State} {rest : List HostEvent} {v : Word} (k : Nat)

theorem core_run_write_a0 (h : s.pending = wrEvent .a0 v :: rest) :
    core.run (k + 1) s = core.run k { s with a0 := v, pending := rest, returned := none } :=
  core_run_succ ((step_of_write h).trans (hostWrite_addressOf_a0 _ v)) k

theorem core_run_write_a1 (h : s.pending = wrEvent .a1 v :: rest) :
    core.run (k + 1) s = core.run k { s with a1 := v, pending := rest, returned := none } :=
  core_run_succ ((step_of_write h).trans (hostWrite_addressOf_a1 _ v)) k

theorem core_run_write_a2 (h : s.pending = wrEvent .a2 v :: rest) :
    core.run (k + 1) s = core.run k { s with a2 := v, pending := rest, returned := none } :=
  core_run_succ ((step_of_write h).trans (hostWrite_addressOf_a2 _ v)) k

/-- A write of any word to CMD, as the last of a run (R54). -/
theorem core_run_write_cmd (h : s.pending = wrEvent .cmd v :: rest) :
    core.run 1 s = runCommand v { s with cmd := v, pending := rest, returned := none } := by
  rw [core_run_one, step_of_write h]
  exact hostWrite_cmdAddr _ v

/-- A command, as the last of a run (R75). -/
theorem core_run_command {i : Instr} (h : s.pending = commandEvent i :: rest) :
    core.run 1 s = exec i { s with cmd := encode i, pending := rest, returned := none } := by
  rw [core_run_one, step_of_write h]
  exact hostWrite_cmdAddr_of_decode (decode_eq_ok_iff.mpr rfl)

end

/-! ### FAULT over one step -/

/-- Storing a word leaves STATUS alone (R53). -/
theorem storeAddr_status (s : State) (addr : Address) (v : Word) :
    (storeAddr s addr v).status = s.status := by
  obtain ⟨-, h⟩ | ⟨-, h⟩ | ⟨-, h⟩ | ⟨-, h⟩ | h := storeAddr_cases s addr v <;> rw [h]

/-- A host write keeps FAULT, and sets it only with a cause (R25, R220). -/
theorem statusFault_hostWrite {addr : Address} {v : Word} {s t : State}
    (h : hostWrite addr v s = .next t) :
    (statusFault s.status = true → statusFault t.status = true) ∧
      (statusFault s.status = false → statusFault t.status = true → statusCause t.status ≠ 0) := by
  by_cases hcmd : addr = cmdAddr
  · subst hcmd
    obtain ⟨c, hc, hend⟩ | ⟨skip2, u, hend, hstatus⟩ := hostWrite_cmdAddr_cases v s
    all_goals obtain rfl := Host.Outcome.next.inj (hend.symm.trans h)
    · rw [raiseCause_status, statusFault_statusRaised, statusCause_statusRaised]
      refine ⟨fun _ => rfl, fun _ _ => ?_⟩
      cases c with
      | none => exact absurd rfl hc
      | illegalCommand | invalidInput | outOfRange => decide
    · rw [complete_status, statusFault_statusCompleted, hstatus]
      exact ⟨id, fun hclear hset => absurd (hclear.symm.trans hset) nofun⟩
  · obtain rfl := Host.Outcome.next.inj ((hostWrite_of_ne_cmdAddr s v hcmd).symm.trans h)
    rw [storeAddr_status]
    exact ⟨id, fun hclear hset => absurd (hclear.symm.trans hset) nofun⟩

/-! ### The statements -/

/-- Settles O5: the four cases of a step. -/
theorem stepTakesTheOldestEvent : Obligations.StepTakesTheOldestEvent :=
  fun _ _ => ⟨step_of_nil, fun _ => step_of_read, fun _ _ => step_of_write, step_of_reset⟩

/-- Settles O6: the step of a write to CMD, and `withFetchWord` as the presenting of such a write. -/
theorem stepRunsTheDecodedCommand : Obligations.StepRunsTheDecodedCommand := by
  intro s w i hdecode
  refine ⟨fun rest hpending => ?_, ?_⟩
  · rw [step_of_write hpending]
    exact hostWrite_cmdAddr_of_decode hdecode
  · have hword : tableCommandWord 32 w.toNat = w := by
      rw [tableCommandWord, Nat.mod_eq_of_lt w.isLt, BitVec.ofNat_toNat, BitVec.setWidth_eq]
    rw [State.withFetchWord, hword, presentCommand, step_of_write rfl]
    exact hostWrite_cmdAddr_of_decode hdecode

/-- Settles O7: of the four cases of a step only a write runs anything, and it answers a next state. -/
theorem everyStepAnswersANextState : Obligations.EveryStepAnswersANextState := by
  intro s
  match hpending : s.pending with
  | [] => exact ⟨_, step_of_nil hpending⟩
  | .read _ :: _ => exact ⟨_, step_of_read hpending⟩
  | .write addr v :: rest =>
    rw [step_of_write hpending]
    exact exists_hostWrite_eq_next addr v _
  | .reset :: _ => exact ⟨_, step_of_reset hpending⟩

/-- Settles O48: reset clears STATUS, a write keeps FAULT or raises a cause, and no other event touches
STATUS. -/
theorem faultIsClearedOnlyByReset : Obligations.FaultIsClearedOnlyByReset := by
  intro s t hstep
  match hpending : s.pending with
  | [] =>
    obtain rfl := Host.Outcome.next.inj ((step_of_nil hpending).symm.trans hstep)
    exact ⟨fun _ => id, nofun, fun hclear hset => absurd (hclear.symm.trans hset) nofun⟩
  | .read addr :: rest =>
    obtain rfl := Host.Outcome.next.inj ((step_of_read hpending).symm.trans hstep)
    exact ⟨fun _ => id, nofun, fun hclear hset => absurd (hclear.symm.trans hset) nofun⟩
  | .write addr v :: rest =>
    obtain ⟨hkeep, hset⟩ := statusFault_hostWrite ((step_of_write hpending).symm.trans hstep)
    exact ⟨fun _ => hkeep, nofun, hset⟩
  | .reset :: rest =>
    obtain rfl := Host.Outcome.next.inj ((step_of_reset hpending).symm.trans hstep)
    have hclear : statusFault (0 : Word) = false := by decide
    exact ⟨fun hne => absurd rfl (hne rest), fun _ _ => hclear,
      fun _ hset => absurd (hclear.symm.trans hset) nofun⟩

/-- Settles O55: at one of the four writable addresses the store is a record update, elsewhere it is
nothing. -/
theorem registerSpaceReadAfterWrite : Obligations.RegisterSpaceReadAfterWrite := by
  intro s a b v
  obtain (rfl | rfl | rfl | rfl) | hignored := address_cases a
  · rw [storeAddr_addressOf_cmd, readAddr_with_cmd]
    exact if_congr ⟨fun h => ⟨h.symm, .inl rfl⟩, fun h => h.1.symm⟩ rfl rfl
  · rw [storeAddr_addressOf_a0, readAddr_with_a0]
    exact if_congr ⟨fun h => ⟨h.symm, .inr (.inl rfl)⟩, fun h => h.1.symm⟩ rfl rfl
  · rw [storeAddr_addressOf_a1, readAddr_with_a1]
    exact if_congr ⟨fun h => ⟨h.symm, .inr (.inr (.inl rfl))⟩, fun h => h.1.symm⟩ rfl rfl
  · rw [storeAddr_addressOf_a2, readAddr_with_a2]
    exact if_congr ⟨fun h => ⟨h.symm, .inr (.inr (.inr rfl))⟩, fun h => h.1.symm⟩ rfl rfl
  · rw [storeAddr_eq_self s v hignored, if_neg]
    rintro ⟨-, rfl | rfl | rfl | rfl⟩ <;> exact absurd hignored (by decide)

/-- Settles O56: each line's writes step by step, then its command. -/
theorem pseudoInstructionsRunAsExpanded : Obligations.PseudoInstructionsRunAsExpanded := by
  intro s rest x y z
  refine ⟨core_run_write_cmd rfl, fun i => core_run_command rfl,
    ?powmod, ?invmod, ?isprime, ?nextprime, ?pptbuild, ?pptextract, ?accadd, ?digit9⟩
  case powmod =>
    exact (core_run_write_a0 3 rfl).trans ((core_run_write_a1 2 rfl).trans
      ((core_run_write_a2 1 rfl).trans (core_run_command rfl)))
  case invmod =>
    exact (core_run_write_a0 2 rfl).trans ((core_run_write_a1 1 rfl).trans (core_run_command rfl))
  case isprime => exact (core_run_write_a0 1 rfl).trans (core_run_command rfl)
  case nextprime => exact (core_run_write_a0 1 rfl).trans (core_run_command rfl)
  case pptbuild => exact (core_run_write_a0 1 rfl).trans (core_run_command rfl)
  case pptextract => exact (core_run_write_a0 1 rfl).trans (core_run_command rfl)
  case accadd =>
    exact (core_run_write_a0 2 rfl).trans ((core_run_write_a1 1 rfl).trans (core_run_command rfl))
  case digit9 => exact (core_run_write_a0 1 rfl).trans (core_run_command rfl)

/-- Settles O58: the step of the reset event, register by register. -/
theorem resetPutsEveryRegisterAtZero : Obligations.ResetPutsEveryRegisterAtZero := by
  intro s rest hpending
  refine ⟨_, step_of_reset hpending, rfl, rfl, rfl, rfl, rfl, rfl, rfl, rfl, rfl, rfl, fun j => ?_, rfl⟩
  exact Vector.getElem_replicate j.isLt

/-- Settles O59: zero limbs, an empty table, a STATUS of 0. -/
theorem resetMeetsTheInvariant : Obligations.ResetMeetsTheInvariant :=
  ⟨by unfold State.LimbsOk; decide, .inl rfl, by unfold State.StatusOk; decide⟩

end Sys2Proof.Machine
end

section
/-! What commands write and read: the registers the spec names for each command (R21, R22, R26 to R28), and the
operand registers a command does not use (R21). -/

namespace Sys2Proof.Machine

/-! ### The registers a command writes -/

/-- `t` differs from `s` at most in STATUS and in the result, accumulator and table registers that the spec
names for the command (R22, R27, R28). -/
def NamedWrites (i : Instr) (s t : State) : Prop :=
  t = { s with r0 := t.r0, r1 := t.r1, accHi := t.accHi, accLo := t.accLo, pptLen := t.pptLen,
               ppt := t.ppt, status := t.status } ∧
  (i = .nop → t.r0 = s.r0) ∧
  (i ≠ .pptextract → i ≠ .accadd → i ≠ .accclr → i ≠ .digit9 → t.r1 = s.r1) ∧
  (i ≠ .accadd → i ≠ .accclr → i ≠ .digit9 → t.accHi = s.accHi ∧ t.accLo = s.accLo) ∧
  (i ≠ .pptbuild → i ≠ .digit9 → t.ppt = s.ppt ∧ t.pptLen = s.pptLen)

/-- Raising a cause writes STATUS alone (R220). -/
theorem namedWrites_raiseCause (i : Instr) (c : Cause) (s : State) :
    NamedWrites i s (raiseCause c s) :=
  ⟨rfl, fun _ => rfl, fun _ _ _ _ => rfl, fun _ _ _ => ⟨rfl, rfl⟩, fun _ _ => ⟨rfl, rfl⟩⟩

/-- A command that writes R0 and STATUS alone. -/
theorem namedWrites_setR0 {i : Instr} (hi : i ≠ .nop) (v : Int) (s : State) :
    NamedWrites i s (complete false (setR0 v s)) :=
  ⟨rfl, fun h => absurd h hi, fun _ _ _ _ => rfl, fun _ _ _ => ⟨rfl, rfl⟩, fun _ _ => ⟨rfl, rfl⟩⟩

/-- A completed command writes what the spec names for it. -/
theorem exec_of_accepted_namedWrites {i : Instr} {s : State} (hvalid : ¬ InvalidOperands s i)
    (hrange : ¬ (i = .digit9 ∧ 17436 < s.a0.toInt)) : ∃ t, exec i s = .next t ∧ NamedWrites i s t := by
  cases i with
  | nop =>
    exact ⟨_, exec_nop s, rfl, fun _ => rfl, fun _ _ _ _ => rfl, fun _ _ _ => ⟨rfl, rfl⟩,
      fun _ _ => ⟨rfl, rfl⟩⟩
  | powmod =>
    obtain ⟨hexp, hmod⟩ := not_or.mp hvalid
    exact ⟨_, exec_powmod_of_valid (not_lt.mp hexp) (not_le.mp hmod), namedWrites_setR0 (by decide) _ s⟩
  | invmod => exact ⟨_, exec_invmod_of_valid (not_le.mp hvalid), namedWrites_setR0 (by decide) _ s⟩
  | isprime => exact ⟨_, exec_isprime s, namedWrites_setR0 (by decide) _ s⟩
  | nextprime => exact ⟨_, exec_nextprime s, namedWrites_setR0 (by decide) _ s⟩
  | pptbuild =>
    exact ⟨_, exec_pptbuild_of_valid (not_lt.mp hvalid), rfl, nofun, fun _ _ _ _ => rfl,
      fun _ _ _ => ⟨rfl, rfl⟩, fun hne => absurd rfl hne⟩
  | pptextract =>
    exact ⟨_, exec_pptextract s, rfl, nofun, fun hne => absurd rfl hne, fun _ _ _ => ⟨rfl, rfl⟩,
      fun _ _ => ⟨rfl, rfl⟩⟩
  | accadd =>
    exact ⟨_, exec_accadd_of_valid (not_le.mp hvalid) Prod.mk.eta.symm, rfl, nofun,
      fun _ hne => absurd rfl hne, fun hne => absurd rfl hne, fun _ _ => ⟨rfl, rfl⟩⟩
  | accclr =>
    exact ⟨_, exec_accclr s, rfl, nofun, fun _ _ hne => absurd rfl hne,
      fun _ hne => absurd rfl hne, fun _ _ => ⟨rfl, rfl⟩⟩
  | digit9 =>
    have hmax : s.a0.toInt ≤ 17436 := not_lt.mp fun hlt => hrange ⟨rfl, hlt⟩
    exact ⟨_, exec_digit9_of_valid ⟨not_lt.mp hvalid, hmax⟩, rfl, nofun,
      fun _ _ _ hne => absurd rfl hne, fun _ _ hne => absurd rfl hne, fun _ hne => absurd rfl hne⟩

/-- Whether it refuses its operands or completes, a command writes what the spec names for it. -/
theorem exec_namedWrites {i : Instr} {s t : State} (hexec : exec i s = .next t) :
    NamedWrites i s t := by
  obtain ⟨-, -, hend⟩ | ⟨-, -, hend⟩ | ⟨hvalid, hrange, -⟩ := exec_cases i s
  · obtain rfl := Host.Outcome.next.inj (hend.symm.trans hexec)
    exact namedWrites_raiseCause i _ s
  · obtain rfl := Host.Outcome.next.inj (hend.symm.trans hexec)
    exact namedWrites_raiseCause i _ s
  · obtain ⟨u, hend, hwrites⟩ := exec_of_accepted_namedWrites hvalid hrange
    obtain rfl := Host.Outcome.next.inj (hend.symm.trans hexec)
    exact hwrites

/-! ### The operand registers a command does not use -/

section

variable (s : State) (v : Word) (r : OperandReg)

theorem withOperand_a0 (hr : r ≠ .a0) : (withOperand s v r).a0 = s.a0 := by
  cases r with
  | a0 => exact absurd rfl hr
  | a1 | a2 => rfl

theorem withOperand_a1 (hr : r ≠ .a1) : (withOperand s v r).a1 = s.a1 := by
  cases r with
  | a1 => exact absurd rfl hr
  | a0 | a2 => rfl

@[simp] theorem withOperand_accHi : (withOperand s v r).accHi = s.accHi := by cases r <;> rfl
@[simp] theorem withOperand_accLo : (withOperand s v r).accLo = s.accLo := by cases r <;> rfl
@[simp] theorem withOperand_pptLen : (withOperand s v r).pptLen = s.pptLen := by cases r <;> rfl
@[simp] theorem withOperand_ppt : (withOperand s v r).ppt = s.ppt := by cases r <;> rfl

/-! The updates of the state do not touch the operand registers, so each commutes with `withOperand`. -/

theorem raiseCause_withOperand (c : Cause) :
    raiseCause c (withOperand s v r) = withOperand (raiseCause c s) v r := by cases r <;> rfl

theorem complete_withOperand (skip2 : Bool) :
    complete skip2 (withOperand s v r) = withOperand (complete skip2 s) v r := by cases r <;> rfl

theorem setR0_withOperand (z : Int) :
    setR0 z (withOperand s v r) = withOperand (setR0 z s) v r := by cases r <;> rfl

theorem setR1_withOperand (z : Int) :
    setR1 z (withOperand s v r) = withOperand (setR1 z s) v r := by cases r <;> rfl

theorem setAcc_withOperand (h l : Int) :
    setAcc h l (withOperand s v r) = withOperand (setAcc h l s) v r := by cases r <;> rfl

theorem setTable_withOperand (t : Table) (len : Nat) :
    setTable t len (withOperand s v r) = withOperand (setTable t len s) v r := by cases r <;> rfl

end

/-- What a command refuses does not depend on an operand register it does not read (R21, R217). -/
theorem invalidOperands_withOperand {i : Instr} {r : OperandReg} (hr : r ∉ operandsRead i) (s : State)
    (v : Word) : InvalidOperands (withOperand s v r) i ↔ InvalidOperands s i := by
  cases i with
  | nop | isprime | nextprime | pptextract | accclr => exact Iff.rfl
  | powmod => cases r <;> simp [operandsRead] at hr
  | invmod | accadd =>
    have ha1 : r ≠ .a1 := by rintro rfl; simp [operandsRead] at hr
    simp only [InvalidOperands, withOperand_a1 s v r ha1]
  | pptbuild | digit9 =>
    have ha0 : r ≠ .a0 := by rintro rfl; simp [operandsRead] at hr
    simp only [InvalidOperands, withOperand_a0 s v r ha0]

/-- A completed command does the same with another word in an operand register it does not read (R21). -/
theorem exec_of_accepted_withOperand {i : Instr} {r : OperandReg} (hr : r ∉ operandsRead i) {s t : State}
    (v : Word) (hvalid : ¬ InvalidOperands s i) (hrange : ¬ (i = .digit9 ∧ 17436 < s.a0.toInt))
    (hexec : exec i s = .next t) :
    exec i (withOperand s v r) = .next (withOperand t v r) := by
  have hvalid' := mt (invalidOperands_withOperand hr s v).mp hvalid
  have ha0 : OperandReg.a0 ∈ operandsRead i → (withOperand s v r).a0 = s.a0 := fun hread =>
    withOperand_a0 s v r fun h => hr (h ▸ hread)
  have ha1 : OperandReg.a1 ∈ operandsRead i → (withOperand s v r).a1 = s.a1 := fun hread =>
    withOperand_a1 s v r fun h => hr (h ▸ hread)
  cases i with
  | nop =>
    obtain rfl := Host.Outcome.next.inj ((exec_nop s).symm.trans hexec)
    rw [exec_nop, complete_withOperand]
  | powmod => cases r <;> simp [operandsRead] at hr
  | invmod =>
    obtain rfl := Host.Outcome.next.inj ((exec_invmod_of_valid (not_le.mp hvalid)).symm.trans hexec)
    rw [exec_invmod_of_valid (not_le.mp hvalid'), ha0 (by decide), ha1 (by decide),
      setR0_withOperand, complete_withOperand]
  | isprime =>
    obtain rfl := Host.Outcome.next.inj ((exec_isprime s).symm.trans hexec)
    rw [exec_isprime, ha0 (by decide), setR0_withOperand, complete_withOperand]
  | nextprime =>
    obtain rfl := Host.Outcome.next.inj ((exec_nextprime s).symm.trans hexec)
    rw [exec_nextprime, ha0 (by decide), setR0_withOperand, complete_withOperand]
  | pptbuild =>
    obtain rfl := Host.Outcome.next.inj
      ((exec_pptbuild_of_valid (not_lt.mp hvalid)).symm.trans hexec)
    rw [exec_pptbuild_of_valid (not_lt.mp hvalid'), ha0 (by decide), withOperand_ppt,
      setTable_withOperand, setR0_withOperand, complete_withOperand]
  | pptextract =>
    obtain rfl := Host.Outcome.next.inj ((exec_pptextract s).symm.trans hexec)
    rw [exec_pptextract, ha0 (by decide), withOperand_ppt, withOperand_pptLen, setR0_withOperand,
      setR1_withOperand, complete_withOperand]
  | accadd =>
    obtain rfl := Host.Outcome.next.inj
      ((exec_accadd_of_valid (not_le.mp hvalid) Prod.mk.eta.symm).symm.trans hexec)
    rw [exec_accadd_of_valid (not_le.mp hvalid') Prod.mk.eta.symm, ha0 (by decide), ha1 (by decide),
      withOperand_accHi, withOperand_accLo, setAcc_withOperand, setR0_withOperand,
      setR1_withOperand, complete_withOperand]
  | accclr =>
    obtain rfl := Host.Outcome.next.inj ((exec_accclr s).symm.trans hexec)
    rw [exec_accclr, setAcc_withOperand, setR0_withOperand, setR1_withOperand, complete_withOperand]
  | digit9 =>
    have hmax : s.a0.toInt ≤ 17436 := not_lt.mp fun hlt => hrange ⟨rfl, hlt⟩
    have hindex : IndexOk s.a0.toInt := ⟨not_lt.mp hvalid, hmax⟩
    obtain rfl := Host.Outcome.next.inj ((exec_digit9_of_valid hindex).symm.trans hexec)
    rw [exec_digit9_of_valid (by rwa [ha0 (by decide)]), ha0 (by decide), withOperand_ppt,
      setTable_withOperand, setAcc_withOperand, setR0_withOperand, setR1_withOperand,
      complete_withOperand]

/-! ### The statements -/

/-- Settles O49: the operand registers, CMD, the queue and the latch are none of the named registers. -/
theorem commandsNeverWriteOperandsOrCmd : Obligations.CommandsNeverWriteOperandsOrCmd := by
  intro i s t hexec
  obtain ⟨hframe, -⟩ := exec_namedWrites hexec
  rw [hframe]
  exact ⟨rfl, rfl, rfl, rfl, rfl, rfl⟩

/-- Settles O50: the clauses of `NamedWrites` on the single registers. -/
theorem onlyTheNamedCommandsWriteEachRegister :
    Obligations.OnlyTheNamedCommandsWriteEachRegister := by
  intro i s t hexec
  obtain ⟨-, hwrites⟩ := exec_namedWrites hexec
  exact hwrites

/-- Settles O51: refusal and completion alike are decided by, and compute with, the operands read. -/
theorem unusedOperandsAreNotRead : Obligations.UnusedOperandsAreNotRead := by
  intro i r v s t hr hexec
  obtain ⟨hinvalid, -, hend⟩ | ⟨-, ⟨rfl, hmax⟩, hend⟩ | ⟨hvalid, hrange, -⟩ := exec_cases i s
  · obtain rfl := Host.Outcome.next.inj (hend.symm.trans hexec)
    rw [exec_of_invalidOperands ((invalidOperands_withOperand hr s v).mpr hinvalid),
      raiseCause_withOperand]
  · obtain rfl := Host.Outcome.next.inj (hend.symm.trans hexec)
    have ha0 : r ≠ .a0 := by rintro rfl; simp [operandsRead] at hr
    rw [exec_digit9_of_outOfRange (by rwa [withOperand_a0 s v r ha0]), raiseCause_withOperand]
  · exact exec_of_accepted_withOperand hr v hvalid hrange hexec

end Sys2Proof.Machine
end

section
/-! POWMOD in its domain (R112) and at its corners (R113): the loop keeps `r · aa^b` as a residue as long as the
products it forms are exact, and its bound never decides (R114). -/

namespace Sys2Proof.Machine

/-! ### Bases whose products are exact -/

/-- A set of bases that squaring modulo `m` does not leave, and whose squares and products with residues
`mulmod` computes exactly. -/
def ExactBases (m : Int) (A : Set Int) : Prop :=
  ∀ a ∈ A, mulmod a a m ∈ A ∧ mulmod a a m = a * a % m ∧
    ∀ r ∈ Set.Ico 0 m, mulmod r a m = r * a % m

/-- A product of two factors within MOD_SAFE is a word (R94 fact 1). -/
theorem isWord_mul_of_abs_le {a b : Int} (ha : |a| ≤ Config.modSafe) (hb : |b| ≤ Config.modSafe) :
    IsWord (a * b) := by
  have hprod : |a * b| ≤ Config.modSafe * Config.modSafe := by
    rw [abs_mul]
    exact mul_le_mul ha hb (abs_nonneg b) (by decide)
  obtain ⟨hlow, hhigh⟩ := abs_le.mp hprod
  simp only [Config.modSafe] at hlow hhigh
  simp only [IsWord, minWord, maxWord]
  omega

/-- A residue of a modulus within MOD_SAFE is within MOD_SAFE. -/
theorem abs_le_modSafe_of_mem {m r : Int} (hmax : m ≤ Config.modSafe) (hr : r ∈ Set.Ico 0 m) :
    |r| ≤ Config.modSafe := by
  obtain ⟨h0, hlt⟩ := hr
  rw [abs_of_nonneg h0]
  omega

/-- Modulo `m` within MOD_SAFE all bases within MOD_SAFE are exact, those below 0 included (R112). -/
theorem exactBases_modSafe {m : Int} (hm : 1 ≤ m) (hmax : m ≤ Config.modSafe) :
    ExactBases m {a | |a| ≤ Config.modSafe} := fun _ ha =>
  ⟨abs_le_modSafe_of_mem hmax ⟨mulmod_nonneg hm, mulmod_lt hm⟩,
    mulmod_of_isWord hm (isWord_mul_of_abs_le ha ha), fun _ hr =>
      mulmod_of_isWord hm (isWord_mul_of_abs_le (abs_le_modSafe_of_mem hmax hr) ha)⟩

/-- Modulo a power of two all bases are exact (R112). -/
theorem exactBases_two_pow {e : Nat} (he : e ≤ 32) : ExactBases (2 ^ e) Set.univ := fun a _ =>
  ⟨Set.mem_univ _, mulmod_two_pow a a he, fun r _ => mulmod_two_pow r a he⟩

/-- The base 0 is exact for every modulus (R113). -/
theorem exactBases_zero {m : Int} (hm : 1 ≤ m) : ExactBases m {0} := by
  rintro a rfl
  have hzero (r : Int) : mulmod r 0 m = r * 0 % m :=
    mulmod_of_isWord hm (by rw [mul_zero]; decide)
  refine ⟨?_, hzero 0, fun r _ => hzero r⟩
  rw [hzero]
  simp

/-! ### The loop of R111 -/

/-- At exponent 0 the loop answers its running result. -/
theorem powModLoop_zero (m : Int) (fuel : Nat) (r aa : Int) : powModLoop m fuel r aa 0 = r := by
  cases fuel <;> rfl

/-- The low bit and the half of a number are its binary parts (R95). -/
theorem eq_two_mul_halve_add_lowBit (b : Int) : b = 2 * halve b + lowBit b ∧ 0 ≤ lowBit b ∧ lowBit b < 2 := by
  simp only [halve, lowBit]
  omega

/-- Testing a bit and multiplying is multiplying by the power of that bit (R111). -/
theorem multiply_modEq {m r aa b : Int} (hproduct : mulmod r aa m = r * aa % m) :
    (if lowBit b = 1 then mulmod r aa m else r) ≡ r * aa ^ (lowBit b).toNat [ZMOD m] := by
  obtain ⟨-, hlow, hhigh⟩ := eq_two_mul_halve_add_lowBit b
  split
  · next hone =>
    rw [hproduct, hone]
    simpa using Int.mod_modEq (r * aa) m
  · next hzero =>
    rw [show lowBit b = 0 by omega]
    simp

/-- With fuel for all bits of the exponent, the loop multiplies its running result by the power. -/
theorem powModLoop_modEq {m : Int} {A : Set Int} (hA : ExactBases m A) {fuel : Nat} {r aa b : Int}
    (hr : r ∈ Set.Ico 0 m) (haa : aa ∈ A) (hb : 0 ≤ b) (hfuel : b < 2 ^ fuel) :
    powModLoop m fuel r aa b ≡ r * aa ^ b.toNat [ZMOD m] := by
  induction fuel generalizing r aa b with
  | zero =>
    obtain rfl : b = 0 := by omega
    rw [powModLoop_zero, Int.toNat_zero, pow_zero, mul_one]
  | succ fuel ih =>
    rcases hb.eq_or_lt with rfl | hpos
    · rw [powModLoop_zero, Int.toNat_zero, pow_zero, mul_one]
    obtain ⟨hsquareMem, hsquare, hproduct⟩ := hA aa haa
    obtain ⟨hbits, hlow, hhigh⟩ := eq_two_mul_halve_add_lowBit b
    have hexponent : b.toNat = (lowBit b).toNat + 2 * (halve b).toNat := by omega
    have hmultiplied := multiply_modEq (b := b) (hproduct r hr)
    have hmem : (if lowBit b = 1 then mulmod r aa m else r) ∈ Set.Ico 0 m := by
      have hm : 1 ≤ m := by have := hr.1; have := hr.2; omega
      split
      · exact ⟨mulmod_nonneg hm, mulmod_lt hm⟩
      · exact hr
    rw [pow_succ] at hfuel
    rw [powModLoop, if_pos hpos]
    by_cases hmore : halve b > 0
    · simp only [if_pos hmore]
      calc powModLoop m fuel (if lowBit b = 1 then mulmod r aa m else r) (mulmod aa aa m) (halve b)
          ≡ (if lowBit b = 1 then mulmod r aa m else r) * mulmod aa aa m ^ (halve b).toNat [ZMOD m] :=
            ih hmem hsquareMem (by omega) (by omega)
        _ ≡ r * aa ^ (lowBit b).toNat * (aa * aa) ^ (halve b).toNat [ZMOD m] :=
            hmultiplied.mul ((hsquare ▸ Int.mod_modEq (aa * aa) m).pow _)
        _ = r * aa ^ b.toNat := by rw [hexponent, pow_add, pow_mul]; ring
    · simp only [if_neg hmore]
      rw [show halve b = 0 by omega, powModLoop_zero]
      have hlast : b.toNat = (lowBit b).toNat := by omega
      rwa [hlast]

/-- Fuel beyond the bits of the exponent changes nothing (R114). -/
theorem powModLoop_fuel {m : Int} {f g : Nat} {r aa b : Int} (hf : b < 2 ^ f) (hg : b < 2 ^ g) :
    powModLoop m f r aa b = powModLoop m g r aa b := by
  have hstop (fuel : Nat) (r aa : Int) {b : Int} (hb : ¬ b > 0) : powModLoop m fuel r aa b = r := by
    cases fuel with
    | zero => rfl
    | succ fuel => rw [powModLoop, if_neg hb]
  induction f generalizing g r aa b with
  | zero => rw [hstop 0 r aa (by omega), hstop g r aa (by omega)]
  | succ f ih =>
    by_cases hpos : b > 0
    · cases g with
      | zero => omega
      | succ g =>
        rw [pow_succ] at hf hg
        rw [powModLoop, powModLoop, if_pos hpos, if_pos hpos]
        exact ih (by simp only [halve]; omega) (by simp only [halve]; omega)
    · rw [hstop (f + 1) r aa hpos, hstop g r aa hpos]

/-! ### The function -/

/-- With exact products `pow_mod` is the least non-negative residue of the power (R112). -/
theorem powMod_of_exactBases {m : Int} (hm : 1 ≤ m) {A : Set Int} (hA : ExactBases m A) {a b : Int}
    (ha : a ∈ A) (hb : 0 ≤ b) (hword : b ≤ maxWord) : powMod a b m = a ^ b.toNat % m := by
  have hstart : (if m = 1 then 0 else 1) ∈ Set.Ico 0 m := by split <;> constructor <;> omega
  have hone : (if m = 1 then 0 else 1) ≡ 1 [ZMOD m] := by
    split
    · next h => rw [h]; exact Int.modEq_one
    · rfl
  have hfuel : b < 2 ^ 31 := by simp only [maxWord] at hword; omega
  have hpower : powMod a b m ≡ a ^ b.toNat [ZMOD m] := by
    simpa [powMod] using (powModLoop_modEq hA hstart ha hb hfuel).trans (hone.mul_right _)
  obtain ⟨hnonneg, hlt⟩ := powMod_mem_Ico a b hm
  rw [← Int.emod_eq_of_lt hnonneg hlt]
  exact hpower

/-- In the domain of R112 `pow_mod` is the least non-negative residue of the power. -/
theorem powMod_eq {a b m : Int} (hdom : PowDomain a b m) (hword : b ≤ maxWord) :
    powMod a b m = a ^ b.toNat % m := by
  obtain ⟨hb, hm, ⟨hlow, hhigh, hmax⟩ | ⟨-, e, he, rfl⟩⟩ := hdom
  · exact powMod_of_exactBases hm (exactBases_modSafe hm hmax) (abs_le.mpr ⟨hlow, hhigh⟩) hb hword
  · exact powMod_of_exactBases hm (exactBases_two_pow (he.trans (by decide))) (Set.mem_univ a) hb hword

/-! ### The statements -/

/-- Settles O10: `powMod_eq` on the operand registers, the residue being a word. -/
theorem powmodExactInDomain : Obligations.PowmodExactInDomain := by
  intro s hdom
  obtain ⟨hexp, hmod, -⟩ := id hdom
  obtain ⟨hnonneg, hlt⟩ := powMod_mem_Ico s.a0.toInt s.a1.toInt hmod
  refine ⟨_, exec_powmod_of_valid hexp (by omega), ?_⟩
  rw [complete_r0, setR0_r0, toInt_toWord_of_lt_toInt hnonneg hlt,
    powMod_eq hdom (isWord_toInt s.a1).2]

/-- Settles O11: the one residue of the modulus 1, the loop that does not run, and the powers of 0. -/
theorem powmodCornerCases : Obligations.PowmodCornerCases := by
  intro s hexp
  have hcompletes (hm : 0 < s.a2.toInt) : ∃ t, exec .powmod s = .next t ∧
      t.r0.toInt = powMod s.a0.toInt s.a1.toInt s.a2.toInt := by
    obtain ⟨hnonneg, hlt⟩ := powMod_mem_Ico s.a0.toInt s.a1.toInt hm
    exact ⟨_, exec_powmod_of_valid hexp hm, toInt_toWord_of_lt_toInt hnonneg hlt⟩
  refine ⟨fun hone => ?_, fun htwo hzero => ?_, fun htwo hbase hpos => ?_⟩
  · obtain ⟨t, hexec, hr0⟩ := hcompletes (by omega)
    obtain ⟨hnonneg, hlt⟩ := powMod_mem_Ico s.a0.toInt s.a1.toInt hone.ge
    exact ⟨t, hexec, by omega⟩
  · obtain ⟨t, hexec, hr0⟩ := hcompletes (by omega)
    refine ⟨t, hexec, ?_⟩
    rw [hr0, hzero, powMod, powModLoop_zero, if_neg (by omega)]
  · obtain ⟨t, hexec, hr0⟩ := hcompletes (by omega)
    refine ⟨t, hexec, ?_⟩
    rw [hr0, powMod_of_exactBases (by omega) (exactBases_zero (by omega)) hbase hexp
      (isWord_toInt s.a1).2, hbase, zero_pow (by omega), Int.zero_emod]

end Sys2Proof.Machine
end

section
/-! INVMOD in its domain (R122, R123): the half-steps as divisions of Euclid's algorithm with Bézout coefficients,
the remainder sequence of Euclid's algorithm under a bound of 22 divisions, by Lamé's theorem and, for the larger
powers of two, by a search of the quotients that could need more. -/

namespace Sys2Proof.Machine

/-! ### The half-steps -/

/-- Reducing `b` by `a` keeps the invariants (R122). -/
theorem bezoutInv_reduceB {m a0 a b x y : Int} (hinv : BezoutInv m a0 a b x y) (ha : a ≠ 0) :
    BezoutInv m a0 a (b % a) x (y - b / a * x) := by
  obtain ⟨ha0, ham, hb0, hbm, hx0, hxm, hy0, hym, hdvdA, hdvdB, hdet, hgcd⟩ := hinv
  have hrem : b % a = b - b / a * a := by rw [Int.emod_def, mul_comm]
  have hrem0 : 0 ≤ b % a := Int.emod_nonneg b ha
  have hremlt : b % a < a := Int.emod_lt_of_pos b (by omega)
  have hquot : 0 ≤ b / a := Int.ediv_nonneg hb0 ha0
  have hdet' : x * (b % a) - (y - b / a * x) * a = m := by rw [hrem, ← hdet]; ring
  have hneg : y - b / a * x ≤ 0 := by nlinarith
  have hlow : -m ≤ y - b / a * x := by nlinarith [mul_nonneg hx0 hrem0]
  refine ⟨ha0, ham, hrem0, by omega, hx0, hxm, hneg, hlow, hdvdA, ?_, hdet', ?_⟩
  · have hcomb : b % a - (y - b / a * x) * a0 = (b - y * a0) - b / a * (a - x * a0) := by
      rw [hrem]; ring
    rw [hcomb]
    exact hdvdB.sub (hdvdA.mul_left _)
  · rw [← hgcd, Int.gcd_comm, Int.gcd_emod, Int.gcd_comm]

/-- Reducing `a` by `b` keeps the invariants (R122). -/
theorem bezoutInv_reduceA {m a0 a b x y : Int} (hinv : BezoutInv m a0 a b x y) (hb : b ≠ 0) :
    BezoutInv m a0 (a % b) b (x - a / b * y) y := by
  obtain ⟨ha0, ham, hb0, hbm, hx0, hxm, hy0, hym, hdvdA, hdvdB, hdet, hgcd⟩ := hinv
  have hrem : a % b = a - a / b * b := by rw [Int.emod_def, mul_comm]
  have hrem0 : 0 ≤ a % b := Int.emod_nonneg a hb
  have hremlt : a % b < b := Int.emod_lt_of_pos a (by omega)
  have hquot : 0 ≤ a / b := Int.ediv_nonneg ha0 hb0
  have hdet' : (x - a / b * y) * b - y * (a % b) = m := by rw [hrem, ← hdet]; ring
  have hpos : 0 ≤ x - a / b * y := by nlinarith
  have hhigh : x - a / b * y ≤ m := by nlinarith [mul_nonneg (neg_nonneg.mpr hy0) hrem0]
  refine ⟨hrem0, by omega, hb0, hbm, hpos, hhigh, hy0, hym, ?_, hdvdB, hdet', ?_⟩
  · have hcomb : a % b - (x - a / b * y) * a0 = (a - x * a0) - a / b * (b - y * a0) := by
      rw [hrem]; ring
    rw [hcomb]
    exact hdvdA.sub (hdvdB.mul_left _)
  · rw [← hgcd, Int.gcd_emod]

/-- Half-step A on a zero divisor (R121). -/
theorem halfStepA_zero (b x y : Int) : halfStepA 0 b x y = (b, y) := rfl

/-- Half-step B on a zero divisor (R121). -/
theorem halfStepB_zero (a x y : Int) : halfStepB a 0 x y = (a, x) := rfl

section

variable {m a0 a b x y : Int} (hm : m < 2 ^ 30) (hinv : BezoutInv m a0 a b x y)
include hm hinv

/-- Half-step A is a floor division without a wrap (R122, R125). -/
theorem halfStepA_eq (ha : a ≠ 0) : halfStepA a b x y = (b % a, y - b / a * x) := by
  obtain ⟨-, -, hrem0, hremm, -, -, hy0, hym, -⟩ := bezoutInv_reduceB hinv ha
  obtain ⟨ha0, -, hb0, hbm, -⟩ := hinv
  have hquot : divT b a = b / a :=
    divT_of_nonneg hb0 (by simp only [maxWord]; omega) (by omega)
  have hword : IsWord (b % a) := isWord_of_nonneg hrem0 (by simp only [maxWord]; omega)
  have hword' : IsWord (y - b / a * x) := by simp only [IsWord, minWord, maxWord]; omega
  have hrem : b - b / a * a = b % a := by rw [Int.emod_def, mul_comm]
  rw [halfStepA, if_pos ha]
  simp only [hquot, hrem, wrap32_of_isWord hword, wrap32_of_isWord hword']

/-- Half-step B is a floor division without a wrap (R122, R125). -/
theorem halfStepB_eq (hb : b ≠ 0) : halfStepB a b x y = (a % b, x - a / b * y) := by
  obtain ⟨hrem0, hremm, -, -, hx0, hxm, -⟩ := bezoutInv_reduceA hinv hb
  obtain ⟨ha0, ham, hb0, -⟩ := hinv
  have hquot : divT a b = a / b :=
    divT_of_nonneg ha0 (by simp only [maxWord]; omega) (by omega)
  have hword : IsWord (a % b) := isWord_of_nonneg hrem0 (by simp only [maxWord]; omega)
  have hword' : IsWord (x - a / b * y) := by simp only [IsWord, minWord, maxWord]; omega
  have hrem : a - a / b * b = a % b := by rw [Int.emod_def, mul_comm]
  rw [halfStepB, if_pos hb]
  simp only [hquot, hrem, wrap32_of_isWord hword, wrap32_of_isWord hword']

/-- Half-step A keeps the invariants, dividing or not (R122). -/
theorem bezoutInv_halfStepA :
    BezoutInv m a0 a (halfStepA a b x y).1 x (halfStepA a b x y).2 := by
  by_cases ha : a = 0
  · subst ha
    rwa [halfStepA_zero]
  · rw [halfStepA_eq hm hinv ha]
    exact bezoutInv_reduceB hinv ha

/-- Half-step B keeps the invariants, dividing or not (R122). -/
theorem bezoutInv_halfStepB :
    BezoutInv m a0 (halfStepB a b x y).1 b (halfStepB a b x y).2 y := by
  by_cases hb : b = 0
  · subst hb
    rwa [halfStepB_zero]
  · rw [halfStepB_eq hm hinv hb]
    exact bezoutInv_reduceA hinv hb

end

/-- The start of the loop meets the invariants (R121, R122). -/
theorem bezoutInv_start {m a0 : Int} (hm : 1 ≤ m) (h0 : 0 ≤ a0) (hle : a0 ≤ m) :
    BezoutInv m a0 a0 m 1 0 := by
  refine ⟨h0, hle, by omega, le_refl m, by decide, hm, le_refl 0, by omega, ?_, ?_, by ring, rfl⟩
  · rw [one_mul, sub_self]
    exact dvd_zero m
  · rw [zero_mul, sub_zero]

/-! ### How many divisions Euclid's algorithm needs -/

/-- Euclid's algorithm, dividing `b` by `a` first, comes to a remainder 0 within the given number of
divisions. -/
def EndsWithin : Nat → Nat → Nat → Prop
  | 0, a, _ => a = 0
  | n + 1, a, b => a = 0 ∨ EndsWithin n (b % a) a

theorem endsWithin_zero_left (n b : Nat) : EndsWithin n 0 b := by
  cases n with
  | zero => rfl
  | succ n => exact .inl rfl

/-- The dividend matters only by its remainder. -/
theorem endsWithin_congr {n a b b' : Nat} (h : b % a = b' % a) :
    EndsWithin n a b ↔ EndsWithin n a b' := by
  cases n with
  | zero => exact Iff.rfl
  | succ n => rw [EndsWithin, EndsWithin, h]

/-- Lamé's theorem: a divisor on which more divisions are needed is at least a Fibonacci number, and a larger
dividend at least the next one. -/
theorem fib_le_of_not_endsWithin {n a b : Nat} (h : ¬ EndsWithin n a b) :
    Nat.fib (n + 2) ≤ a ∧ (a < b → Nat.fib (n + 3) ≤ b) := by
  induction n generalizing a b with
  | zero =>
    have ha : a ≠ 0 := h
    have htwo : Nat.fib (0 + 2) = 1 := rfl
    have hthree : Nat.fib (0 + 3) = 2 := rfl
    omega
  | succ n ih =>
    obtain ⟨ha, hrest⟩ := not_or.mp h
    obtain ⟨hrem, hdivisor⟩ := ih hrest
    have hlt : b % a < a := Nat.mod_lt b (by omega)
    have ha' := hdivisor hlt
    refine ⟨ha', fun hab => ?_⟩
    have hsum : a + b % a ≤ b := by
      have hquot : 1 ≤ b / a := (Nat.one_le_div_iff (by omega)).mpr hab.le
      calc a + b % a ≤ a * (b / a) + b % a := Nat.add_le_add_right (Nat.le_mul_of_pos_right a hquot) _
        _ = b := Nat.div_add_mod b a
    have hfib : Nat.fib (n + 1 + 3) = Nat.fib (n + 2) + Nat.fib (n + 3) := Nat.fib_add_two
    omega

/-- Below the Fibonacci number of Lamé's theorem the divisions suffice. -/
theorem endsWithin_of_lt_fib {n a b : Nat} (h : a < Nat.fib (n + 2)) : EndsWithin n a b :=
  not_not.mp fun hnot => not_le.mpr h (fib_le_of_not_endsWithin hnot).1

/-- A search for a divisor `u` of a dividend `v` on which more divisions are needed. The pairs looked at are
those with `u + p' = p · t` and `v + s' = s · t'` for two numbers `t + t' = T`, as Euclid's algorithm by
subtraction reaches them from `(t, T - t)`. Either `v` is larger and `u` is subtracted from it, or `u` is and
the two change places for the cost of one division; a node is closed when Lamé's theorem covers the largest `u`
that leaves a positive `v`. -/
def searchEnds (T : Nat) : Nat → Nat → Nat → Nat → Nat → Nat → Bool
  | 0, _, _, _, _, _ => false
  | fuel + 1, n, p, p', s, s' =>
    decide (p * (T - (s' / s + 1)) < p' + Nat.fib (n + 2)) ||
      match n with
      | 0 => false
      | n + 1 =>
        searchEnds T fuel (n + 1) p p' (s + p) (s' + (p * T - p')) &&
          searchEnds T fuel n s s' (p + s) (p' + (s * T - s'))

/-- A search that closes all its nodes is right about every pair it looks at. -/
theorem endsWithin_of_searchEnds {T fuel n p p' s s' : Nat}
    (hsearch : searchEnds T fuel n p p' s s' = true) {t t' u v : Nat} (hT : t + t' = T)
    (hu : u + p' = p * t) (hv : v + s' = s * t') (hpos : 0 < v) : EndsWithin n u v := by
  induction fuel generalizing n p p' s s' t t' u v with
  | zero => cases hsearch
  | succ fuel ih =>
    unfold searchEnds at hsearch
    rw [Bool.or_eq_true, decide_eq_true_iff] at hsearch
    obtain hclosed | hopen := hsearch
    · have ht' : s' / s < t' := Nat.div_lt_of_lt_mul (by omega)
      have hmax : p * t ≤ p * (T - (s' / s + 1)) := Nat.mul_le_mul_left p (by omega)
      exact endsWithin_of_lt_fib (by omega)
    · cases n with
      | zero => cases hopen
      | succ n =>
        obtain ⟨hsubtract, hswap⟩ := (Bool.and_eq_true _ _).mp hopen
        have hpT : p * T = p * t + p * t' := by rw [← hT, mul_add]
        have hsT : s * T = s * t' + s * t := by rw [← hT, mul_add, add_comm]
        rcases lt_trichotomy u v with hlt | rfl | hgt
        · have hrest : EndsWithin (n + 1) u (v - u) :=
            ih hsubtract hT hu (by rw [add_mul]; omega) (by omega)
          refine (endsWithin_congr ?_).mp hrest
          exact (Nat.mod_eq_sub_mod hlt.le).symm
        · exact .inr (by rw [Nat.mod_self]; exact endsWithin_zero_left n u)
        · have hrest : EndsWithin n v (u - v) :=
            ih hswap ((add_comm t' t).trans hT) hv (by rw [add_mul]; omega) (by omega)
          refine .inr ?_
          rw [Nat.mod_eq_of_lt hgt]
          refine (endsWithin_congr ?_).mp hrest
          exact (Nat.mod_eq_sub_mod hgt.le).symm

/-- A search from its root is right about every divisor below the dividend. -/
theorem endsWithin_of_searchEnds_root {T fuel n : Nat} (hsearch : searchEnds T fuel n 1 0 1 0 = true)
    {a : Nat} (ha : a < T) : EndsWithin n a T := by
  have hrest : EndsWithin n a (T - a) :=
    endsWithin_of_searchEnds hsearch (t := a) (t' := T - a) (by omega) (by omega) (by omega) (by omega)
  refine (endsWithin_congr ?_).mp hrest
  exact (Nat.mod_eq_sub_mod ha.le).symm

theorem searchEnds_two_pow_17 : searchEnds (2 ^ 17) 30 22 1 0 1 0 = true := by decide +kernel

theorem searchEnds_two_pow_18 : searchEnds (2 ^ 18) 30 22 1 0 1 0 = true := by decide +kernel

theorem searchEnds_two_pow_19 : searchEnds (2 ^ 19) 30 22 1 0 1 0 = true := by decide +kernel

/-- Up to a modulus of 2^16, prime power or not, 22 divisions suffice: F(25) is above it (R123). -/
theorem endsWithin_of_le {a m : Nat} (ha : a < m) (hm : m ≤ 2 ^ 16) : EndsWithin 22 a m := by
  refine not_not.mp fun hnot => ?_
  have hfib : Nat.fib 25 ≤ m := (fib_le_of_not_endsWithin hnot).2 ha
  have : Nat.fib 25 = 75025 := by decide
  omega

/-- Modulo a power of two up to 2^19, 22 divisions suffice (R123). -/
theorem endsWithin_two_pow {a e : Nat} (he : e ≤ 19) (ha : a < 2 ^ e) : EndsWithin 22 a (2 ^ e) := by
  by_cases hsmall : e ≤ 16
  · exact endsWithin_of_le ha (Nat.pow_le_pow_right (by decide) hsmall)
  obtain rfl | rfl | rfl : e = 17 ∨ e = 18 ∨ e = 19 := by omega
  · exact endsWithin_of_searchEnds_root searchEnds_two_pow_17 ha
  · exact endsWithin_of_searchEnds_root searchEnds_two_pow_18 ha
  · exact endsWithin_of_searchEnds_root searchEnds_two_pow_19 ha

end Sys2Proof.Machine
end

section
/-! INVMOD in its domain (R122, R123): the loop of R121 carries Bézout coefficients along Euclid's algorithm, so
where 22 divisions suffice it answers the inverse. -/

namespace Sys2Proof.Machine

/-! ### The loop -/

/-- One iteration is a division of `b` by `a` and one of `a` by what is left of `b` (R121). -/
theorem invModLoop_succ (m : Int) (n : Nat) (a b x y : Int) :
    invModLoop m (n + 1) a b x y =
      invModLoop m n (halfStepB a (halfStepA a b x y).1 x (halfStepA a b x y).2).1
        (halfStepA a b x y).1 (halfStepB a (halfStepA a b x y).1 x (halfStepA a b x y).2).2
        (halfStepA a b x y).2 :=
  rfl

/-- Once a remainder is 0 an iteration changes nothing (R121). -/
theorem invModLoop_of_zero {m a0 : Int} (hm : m < 2 ^ 30) {n : Nat} {a b x y : Int}
    (hinv : BezoutInv m a0 a b x y) (hzero : a = 0 ∨ b = 0) :
    invModLoop m n a b x y = invModLoop m 0 a b x y := by
  induction n with
  | zero => rfl
  | succ n ih =>
    rw [invModLoop_succ]
    obtain rfl | rfl := hzero
    · rw [halfStepA_zero]
      by_cases hb : b = 0
      · subst hb
        rw [halfStepB_zero, ih]
      · rw [halfStepB_eq hm hinv hb, Int.zero_emod, Int.zero_ediv, zero_mul, sub_zero, ih]
    · have hA : halfStepA a 0 x y = (0, y) := by
        by_cases ha : a = 0
        · subst ha
          rw [halfStepA_zero]
        · rw [halfStepA_eq hm hinv ha, Int.zero_emod, Int.zero_ediv, zero_mul, sub_zero]
      rw [hA, halfStepB_zero, ih]

/-- Where Euclid's algorithm ends within the half-steps, the loop comes to a remainder 0, its invariants kept. -/
theorem exists_invModLoop_eq {m a0 : Int} (hm : m < 2 ^ 30) {n : Nat} {a b : Nat} {x y : Int}
    (hinv : BezoutInv m a0 a b x y) (hends : EndsWithin (2 * n) a b) :
    ∃ a' b' x' y', BezoutInv m a0 a' b' x' y' ∧ (a' = 0 ∨ b' = 0) ∧
      invModLoop m n a b x y = invModLoop m 0 a' b' x' y' := by
  induction n generalizing a b x y with
  | zero => exact ⟨_, _, _, _, hinv, .inl (Int.natCast_eq_zero.mpr hends), rfl⟩
  | succ n ih =>
    by_cases ha : a = 0
    · exact ⟨_, _, _, _, hinv, .inl (Int.natCast_eq_zero.mpr ha), invModLoop_of_zero hm hinv
        (.inl (Int.natCast_eq_zero.mpr ha))⟩
    have hA := halfStepA_eq hm hinv (Int.natCast_ne_zero.mpr ha)
    have hinvA := bezoutInv_reduceB hinv (Int.natCast_ne_zero.mpr ha)
    have hendsA : EndsWithin (2 * n + 1) (b % a) a := hends.resolve_left ha
    rw [← Int.natCast_mod] at hA hinvA
    rw [invModLoop_succ, hA]
    by_cases hb : b % a = 0
    · rw [hb] at hinvA ⊢
      rw [Nat.cast_zero] at hinvA ⊢
      rw [halfStepB_zero]
      exact ⟨_, _, _, _, hinvA, .inr rfl, invModLoop_of_zero hm hinvA (.inr rfl)⟩
    · rw [halfStepB_eq hm hinvA (Int.natCast_ne_zero.mpr hb)]
      have hinvB := bezoutInv_reduceA hinvA (Int.natCast_ne_zero.mpr hb)
      rw [← Int.natCast_mod] at hinvB ⊢
      exact ih hinvB (hendsA.resolve_left hb)

/-- What the loop chooses at a remainder 0 inverts a value coprime to the modulus (R121, R122). -/
theorem invModLoop_zero_spec {m a0 a b x y : Int} (hm : 2 ≤ m) (hmax : m < 2 ^ 30)
    (hcoprime : Int.gcd a0 m = 1) (hinv : BezoutInv m a0 a b x y) (hzero : a = 0 ∨ b = 0) :
    invModLoop m 0 a b x y ∈ Set.Ico 0 m ∧ a0 * invModLoop m 0 a b x y ≡ 1 [ZMOD m] := by
  obtain ⟨ha0, -, hb0, -, hx0, hxm, hy0, hym, hdvdA, hdvdB, -, hgcd⟩ := hinv
  rw [hcoprime] at hgcd
  have hunit (h : m ∣ 1) : False := by
    have := Int.le_of_dvd one_pos h
    omega
  rw [invModLoop]
  by_cases hb : b = 0
  · subst hb
    obtain rfl : a = 1 := by
      rw [Int.gcd_zero_right] at hgcd
      omega
    rw [if_pos rfl]
    have hne : x ≠ m := by
      rintro rfl
      exact hunit (by simpa using hdvdA.add (dvd_mul_right x a0))
    exact ⟨⟨hx0, by omega⟩, by rw [mul_comm]; exact Int.modEq_iff_dvd.mpr hdvdA⟩
  · obtain rfl : a = 0 := hzero.resolve_right hb
    obtain rfl : b = 1 := by
      rw [Int.gcd_zero_left] at hgcd
      omega
    have hinverse : a0 * y ≡ 1 [ZMOD m] := by rw [mul_comm]; exact Int.modEq_iff_dvd.mpr hdvdB
    have hy : y < 0 := by
      refine lt_of_le_of_ne hy0 ?_
      rintro rfl
      exact hunit (by simpa using hdvdB)
    have hword : IsWord (y + m) := by simp only [IsWord, minWord, maxWord]; omega
    rw [if_neg hb, if_pos hy, wrap32_of_isWord hword]
    refine ⟨⟨by omega, by omega⟩, ?_⟩
    calc a0 * (y + m) ≡ a0 * (y + 0) [ZMOD m] :=
          (((Int.modEq_zero_iff_dvd.mpr (dvd_refl m)).add_left y).mul_left a0)
      _ ≡ 1 [ZMOD m] := by rwa [add_zero]

/-! ### The function -/

/-- On a normalised value coprime to the modulus, where 22 divisions suffice, `inv_mod` is the inverse. -/
theorem invMod_of_endsWithin {a m : Nat} (hm : m < 2 ^ 30) (ham : a < m) (hcoprime : Nat.Coprime a m)
    (hends : EndsWithin 22 a m) :
    invMod a m ∈ Set.Ico (0 : Int) m ∧ a * invMod a m ≡ 1 [ZMOD m] := by
  by_cases hone : m = 1
  · subst hone
    obtain rfl : a = 0 := by omega
    exact ⟨by decide, Int.modEq_one⟩
  have hm' : (m : Int) < 2 ^ 30 := by exact_mod_cast hm
  have hstart : BezoutInv m a a m 1 0 := bezoutInv_start (by omega) (by omega) (by omega)
  obtain ⟨a', b', x', y', hinv, hzero, hloop⟩ :=
    exists_invModLoop_eq hm' (n := Config.invIters) hstart hends
  have hinvMod : invMod a m = invModLoop m 0 a' b' x' y' := by
    rw [invMod, if_neg (by omega), hloop]
  rw [hinvMod]
  exact invModLoop_zero_spec (by omega) hm' hcoprime hinv hzero

/-- A negative value gets one addition of the modulus (R121). -/
theorem invMod_of_neg {a m : Int} (hlow : -m < a) (hneg : a < 0) (hm : m < 2 ^ 30) :
    invMod a m = invMod (a + m) m := by
  have hword : IsWord (a + m) := isWord_of_nonneg (by omega) (by simp only [maxWord]; omega)
  rw [invMod, invMod, if_pos hneg, wrap32_of_isWord hword, if_neg (by omega)]

/-- On a value of smaller magnitude coprime to the modulus, where 22 divisions suffice for all smaller
values, `inv_mod` is the inverse (R123). -/
theorem invMod_spec {a m : Int} (hm : m < 2 ^ 30) (hlow : -m < a) (hhigh : a < m)
    (hcoprime : Int.gcd a m = 1) (hends : ∀ v < m.toNat, EndsWithin 22 v m.toNat) :
    invMod a m ∈ Set.Ico 0 m ∧ a * invMod a m ≡ 1 [ZMOD m] := by
  obtain ⟨m, rfl⟩ := Int.eq_ofNat_of_zero_le (show 0 ≤ m by omega)
  rw [Int.toNat_natCast] at hends
  by_cases hneg : a < 0
  · obtain ⟨v, hv⟩ := Int.eq_ofNat_of_zero_le (show 0 ≤ a + m by omega)
    have hgcd : Nat.Coprime v m := by
      rw [← Int.gcd_add_self_left, hv] at hcoprime
      exact hcoprime
    obtain ⟨hmem, hinverse⟩ :=
      invMod_of_endsWithin (by omega) (by omega) hgcd (hends v (by omega))
    rw [invMod_of_neg hlow hneg hm, hv]
    refine ⟨hmem, Int.ModEq.trans (Int.ModEq.mul_right _ ?_) hinverse⟩
    rw [← hv]
    exact (Int.add_modEq_right (n := (m : Int))).symm
  · obtain ⟨v, rfl⟩ := Int.eq_ofNat_of_zero_le (not_lt.mp hneg)
    exact invMod_of_endsWithin (by omega) (by omega) hcoprime (hends v (by omega))

/-- The inverse for every modulus within MOD_SAFE, case (i) of R123. -/
theorem invMod_of_invDomain {a m : Int} (hdom : InvDomain a m) :
    invMod a m ∈ Set.Ico 0 m ∧ a * invMod a m ≡ 1 [ZMOD m] := by
  obtain ⟨-, hlow, hhigh, hcoprime, hmax⟩ := hdom
  rw [Config.modSafe] at hmax
  exact invMod_spec (by omega) hlow hhigh hcoprime fun v hv => endsWithin_of_le hv (by omega)

/-- The inverse for every power of two up to 2^19, case (ii) of R123. -/
theorem invMod_of_invDomainTwo {a m : Int} (hdom : InvDomainTwo a m) :
    invMod a m ∈ Set.Ico 0 m ∧ a * invMod a m ≡ 1 [ZMOD m] := by
  obtain ⟨hlow, hhigh, hcoprime, e, he, rfl⟩ := hdom
  have hpow : (2 : Int) ^ e < 2 ^ 30 := pow_lt_pow_right₀ (by decide) (by omega)
  have hcast : ((2 : Int) ^ e).toNat = 2 ^ e := by
    rw [← Nat.cast_ofNat, ← Nat.cast_pow, Int.toNat_natCast]
  exact invMod_spec hpow hlow hhigh hcoprime fun v hv => by
    rw [hcast] at hv ⊢
    exact endsWithin_two_pow he hv

/-- INVMOD leaves the inverse in R0 where `inv_mod` gives it. -/
theorem exec_invmod_inverse {s : State} (hmod : 0 < s.a1.toInt)
    (hspec : invMod s.a0.toInt s.a1.toInt ∈ Set.Ico 0 s.a1.toInt ∧
      s.a0.toInt * invMod s.a0.toInt s.a1.toInt ≡ 1 [ZMOD s.a1.toInt]) :
    ∃ t, exec .invmod s = .next t ∧ 0 ≤ t.r0.toInt ∧ t.r0.toInt < s.a1.toInt ∧
      (s.a0.toInt * t.r0.toInt) % s.a1.toInt = 1 % s.a1.toInt := by
  obtain ⟨⟨hnonneg, hlt⟩, hinverse⟩ := hspec
  refine ⟨_, exec_invmod_of_valid hmod, ?_⟩
  rw [complete_r0, setR0_r0, toInt_toWord_of_lt_toInt hnonneg hlt]
  exact ⟨hnonneg, hlt, hinverse⟩

/-! ### The statements -/

/-- Settles O13: Lamé's theorem below 2^16, and the invariants at a remainder 0. -/
theorem invmodExactWithinModSafe : Obligations.InvmodExactWithinModSafe := by
  intro s hdom
  obtain ⟨hmod, -⟩ := id hdom
  exact exec_invmod_inverse (by omega) (invMod_of_invDomain hdom)

/-- Settles O14: the search of the quotients for 2^17 to 2^19, and the invariants at a remainder 0. -/
theorem invmodExactForPowersOfTwo : Obligations.InvmodExactForPowersOfTwo := by
  intro s hdom
  obtain ⟨hlow, hhigh, -⟩ := id hdom
  exact exec_invmod_inverse (by omega) (invMod_of_invDomainTwo hdom)

/-- Settles O15: the start, and each half-step as a division or as nothing. -/
theorem inversionHalfStepsKeepTheInvariants : Obligations.InversionHalfStepsKeepTheInvariants := by
  intro m a0 a b x y hm hmax
  refine ⟨bezoutInv_start hm, fun hinv => ⟨bezoutInv_halfStepA hmax hinv,
    bezoutInv_halfStepB hmax hinv, fun ha => ?_, fun hb => ?_⟩⟩
  · rw [halfStepA_eq hmax hinv ha]
  · rw [halfStepB_eq hmax hinv hb]

end Sys2Proof.Machine
end

section
/-! The prime oracle where it is exact (R133, R134), the prime table as the first primes (R29, R51), and the
bounds of the loops that search (log entry 12). -/

namespace Sys2Proof.Machine

/-! ### The prime table -/

/-- The entries of the prime table are primes (R29). -/
theorem prime_of_mem_primeRom : ∀ q ∈ primeRom, Nat.Prime q.toNat := by decide +kernel

/-- Every prime up to the last entry is in the prime table (R29). -/
theorem mem_primeRom_of_prime : ∀ q < 223, Nat.Prime q → (q : Int) ∈ primeRom := by decide +kernel

/-- An entry of the prime table is the prime of its index (R29). -/
theorem count_prime_primeRom :
    ∀ i : Fin 47, Nat.count Nat.Prime (primeRom.getD i.val 0).toNat = i.val := by decide +kernel

/-- The entries of the prime table in order are the first primes (R29). -/
theorem toNat_primeRom_eq_nth (i : Fin 47) :
    (primeRom.getD i.val 0).toNat = Nat.nth Nat.Prime i.val := by
  have hmem : primeRom.getD i.val 0 ∈ primeRom := by
    rw [List.getD_eq_getElem _ _ i.isLt]
    exact List.getElem_mem _
  have hnth := Nat.nth_count (prime_of_mem_primeRom _ hmem)
  rwa [count_prime_primeRom i, eq_comm] at hnth

/-- A read of a prime table address as a number (R29, R52). -/
theorem toNat_readReg_primeRom (s : State) (i : Fin 47) :
    (readReg s (.primeRom i)).toNat = (primeRom.getD i.val 0).toNat := by
  revert i
  show ∀ i : Fin 47, (toWord (primeRom.getD i.val 0)).toNat = (primeRom.getD i.val 0).toNat
  decide

/-! ### The exact range of the oracle -/

/-- Below 223², the square of the first prime not in the table, `is_prime` decides primality (R133). -/
theorem isPrime_natCast_iff {n : Nat} (htwo : 2 ≤ n) (hlimit : n < 49729) :
    isPrime n = true ↔ Nat.Prime n := by
  rw [isPrime_eq_true_iff]
  constructor
  · rintro (hmem | hnone)
    · exact prime_of_mem_primeRom _ hmem
    · by_contra hcomposite
      have hfactor : n.minFac.Prime := Nat.minFac_prime (by omega)
      have hsquare : n.minFac ^ 2 ≤ n := Nat.minFac_sq_le_self (by omega) hcomposite
      have hsmall : n.minFac < 223 := lt_of_pow_lt_pow_left₀ 2 (by decide) (by omega)
      exact hnone _ (mem_primeRom_of_prime _ hsmall hfactor)
        (Int.natCast_dvd_natCast.mpr n.minFac_dvd)
  · intro hprime
    by_cases hmem : (n : Int) ∈ primeRom
    · exact .inl hmem
    · refine .inr fun q hq hdvd => hmem ?_
      have hqprime := prime_of_mem_primeRom q hq
      obtain ⟨q, rfl⟩ := Int.eq_ofNat_of_zero_le
        (show 0 ≤ q by have := hqprime.pos; omega)
      rw [Int.toNat_natCast] at hqprime
      rw [(Nat.prime_dvd_prime_iff_eq hqprime hprime).mp (Int.natCast_dvd_natCast.mp hdvd)] at hq
      exact hq

/-- From 1 up to below 49727, `next_prime` is the least prime above its argument: the search reaches the prime
49727 before it could wrap (R134). -/
theorem nextPrime_natCast {n : Nat} (hone : 1 ≤ n) (hlimit : n < 49727) :
    ∃ q : Nat, nextPrime n = q ∧ Nat.Prime q ∧ n < q ∧ q ≤ 49727 ∧
      ∀ r : Nat, Nat.Prime r → n < r → q ≤ r := by
  obtain ⟨k, hpos, -, hvalue, haccept, hreject⟩ := nextPrime_spec n
  have hnowrap (j : Nat) (hj : n + j ≤ 49727) : wrap32 (n + j) = ((n + j : Nat) : Int) := by
    rw [← Nat.cast_add]
    exact wrap32_of_isWord (isWord_of_nonneg (by omega) (by simp only [maxWord]; omega))
  have hlast : isPrime ((49727 : Nat) : Int) = true := by decide
  have hk : n + k ≤ 49727 := by
    by_contra hgt
    have := hreject (49727 - n) (by omega) (by omega)
    rw [hnowrap _ (by omega), Nat.add_sub_cancel' hlimit.le, hlast] at this
    cases this
  rw [hnowrap k hk] at hvalue haccept
  refine ⟨n + k, hvalue, (isPrime_natCast_iff (by omega) (by omega)).mp haccept, by omega, hk,
    fun r hr hnr => ?_⟩
  by_contra hlt
  have hrejected := hreject (r - n) (by omega) (by omega)
  rw [hnowrap _ (by omega), Nat.add_sub_cancel' hnr.le,
    (isPrime_natCast_iff hr.two_le (by omega)).mpr hr] at hrejected
  cases hrejected

/-! ### The bounds of the search -/

/-- Fuel beyond 2^32 changes nothing of the search (R134; log entry 12). -/
theorem nextPrimeFrom_fuel {c : Int} (hc : IsWord c) {f : Nat} (hf : 2 ^ 32 ≤ f) :
    nextPrimeFrom f c = nextPrimeFrom searchBound c := by
  obtain ⟨d, hlt, haccept, hreject⟩ := exists_first_isPrime c
  have hfuel (g : Nat) (hg : 2 ^ 32 ≤ g) : nextPrimeFrom g c = wrap32 (c + d) := by
    rw [← nextPrimeFrom_eq (hlt.trans_le hg) haccept hreject, wrap32_of_isWord hc]
  rw [hfuel f hf, hfuel searchBound (le_refl _)]

/-! ### The statements -/

/-- Settles O17: the truth word of `is_prime` where it decides primality. -/
theorem isprimeExactBelowTheOracleLimit : Obligations.IsprimeExactBelowTheOracleLimit := by
  intro s htwo hlimit
  have hexact : isPrime s.a0.toInt = true ↔ Nat.Prime s.a0.toInt.toNat := by
    rw [← isPrime_natCast_iff (by omega) (by omega), Int.toNat_of_nonneg (by omega)]
  refine ⟨_, exec_isprime s, ?_⟩
  rw [complete_r0, setR0_r0, toWord_truthWord, ← hexact]
  cases isPrime s.a0.toInt <;> decide

/-- Settles O19: `nextPrime_natCast` on the operand register. -/
theorem nextprimeIsTheSmallestPrimeAbove : Obligations.NextprimeIsTheSmallestPrimeAbove := by
  intro s hone hlimit
  obtain ⟨n, hn⟩ := Int.eq_ofNat_of_zero_le (show 0 ≤ s.a0.toInt by omega)
  obtain ⟨q, hvalue, hprime, hlt, hle, hleast⟩ :=
    nextPrime_natCast (n := n) (by omega) (by omega)
  have hr0 : (toWord (nextPrime s.a0.toInt)).toInt = q := by
    rw [hn, hvalue]
    exact toInt_toWord (isWord_of_nonneg (by omega) (by simp only [maxWord]; omega))
  refine ⟨_, exec_nextprime s, ?_⟩
  rw [complete_r0, setR0_r0, hr0, hn]
  exact ⟨hprime, by exact_mod_cast hlt, fun r hr hlr => by exact_mod_cast hleast r hr (by omega)⟩

/-- Settles O52: each address of the map is its register's, and the prime table holds the first primes. -/
theorem registerMapReads : Obligations.RegisterMapReads := by
  intro s
  have hread := readAddr_addressOf s
  exact ⟨hread .cmd, hread .status, hread .a0, hread .a1, hread .a2, hread .r0, hread .r1,
    hread .accHi, hread .accLo, hread .pptLen, fun j => hread (.ppt j),
    fun i => (congrArg BitVec.toNat (hread (.primeRom i))).trans
      ((toNat_readReg_primeRom s i).trans (toNat_primeRom_eq_nth i)), hread⟩

end Sys2Proof.Machine
end

section
/-! PPTEXTRACT on the table of a base (R138): the highest entry that divides is removed; with a prime base that is
the multiplicity, capped at the last index. -/

namespace Sys2Proof.Machine

/-! ### Tables of a base -/

/-- The first `len` entries are the powers of `p` that do not exceed PP_CEIL (R28, R136). -/
def IsTableOf (p : Int) (t : Table) (len : Nat) : Prop :=
  2 ≤ p ∧ 1 ≤ len ∧ len ≤ 16 ∧ (∀ j < len, entryAt t j = p ^ j ∧ p ^ j ≤ Config.ppCeil) ∧
    Config.ppCeil < p ^ len

/-- The table registers of a state hold the table of `p`, read entry by entry (R28). -/
theorem isTableOf_of_tableOf {s : State} {p : Int} (htable : s.TableOf p) :
    IsTableOf p s.ppt s.pptLen.toInt.toNat := by
  obtain ⟨hp, hpos, hle, hentries, hceil⟩ := htable
  refine ⟨hp, by omega, by omega, fun j hj => ?_, hceil⟩
  have hj16 : j < 16 := by omega
  rw [entryAt_of_lt s.ppt hj16]
  exact hentries ⟨j, hj16⟩ (by show (j : Int) < _; omega)

/-- `ppt_build` makes the table of its base, whatever the entries before (R136). -/
theorem isTableOf_pptBuild {p : Int} (hp : 2 ≤ p) (t : Table) :
    IsTableOf p (pptBuild p t).1 (pptBuild p t).2 := by
  have hlog := log_ppCeil_le hp
  have hlen := pptBuild_snd hp t
  refine ⟨hp, by omega, by omega, fun j hj => ?_, ?_⟩
  · have hle := (pow_le_ppCeil_iff hp j).mpr (by omega)
    refine ⟨?_, hle⟩
    rw [entryAt_of_lt _ (by omega), pptBuild_fst_getElem hp t (by omega), if_pos hj,
      toInt_toWord_pow hp hle]
  · rw [hlen, ← not_le, pow_le_ppCeil_iff hp]
    omega

/-! ### The scan of the table of a base -/

/-- A word's quotient by a positive divisor of it is exact (R91). -/
theorem divT_mul_cancel {n q : Int} (hn : IsWord n) (hq : 0 < q) (hdvd : q ∣ n) :
    divT n q * q = n := by
  rw [divT_of_ne (by omega), wrap32_of_isWord (tdiv_isWord hn (by omega)), Int.tdiv_mul_cancel hdvd]

/-- On the table of a base the scan removes the highest power that divides the word (R138). -/
theorem pptExtract_spec {p : Int} {t : Table} {len : Nat} (htable : IsTableOf p t len) {n : Int}
    (hn : IsWord n) :
    ∃ (n' : Int) (j : Nat), pptExtract t len n = (n', j) ∧ j < len ∧ n' * p ^ j = n ∧
      ∀ i : Nat, j < i → i < len → ¬ p ^ i ∣ n := by
  obtain ⟨hp, hpos, -, hentries, -⟩ := htable
  have hpow (j : Nat) : 0 < p ^ j := pow_pos (by omega) j
  have htop : ((len : Int) - 1).toNat = len - 1 := by omega
  have hnone {i : Nat} (hi : i < len) (hrem : remT n (entryAt t i) ≠ 0) : ¬ p ^ i ∣ n := by
    rwa [(hentries i hi).1, ne_eq, remT_eq_zero_iff_dvd (hpow i).ne'] at hrem
  rw [pptExtract, htop]
  obtain ⟨heq, hrem⟩ | ⟨j, -, hj, heq, hzero, hrem⟩ := extractFrom_cases t n (len - 1)
  · exact ⟨n, 0, heq, hpos, by rw [pow_zero, mul_one], fun i hi hlt =>
      hnone hlt (hrem i hi (by omega))⟩
  · rw [(hentries j (by omega)).1, remT_eq_zero_iff_dvd (hpow j).ne'] at hzero
    rw [(hentries j (by omega)).1] at heq
    exact ⟨_, j, heq, by omega, divT_mul_cancel hn (hpow j) hzero, fun i hi hlt =>
      hnone hlt (hrem i hi (by omega))⟩

/-- With a prime base the index removed is the multiplicity, capped at the last index (R138). -/
theorem pptExtract_prime {p : Nat} (hp : Nat.Prime p) {t : Table} {len : Nat}
    (htable : IsTableOf p t len) {n : Nat} (hpos : 1 ≤ n) (hn : IsWord n) :
    ∃ n' j : Nat, pptExtract t len n = ((n' : Int), j) ∧ j = min (padicValNat p n) (len - 1) ∧
      n' * p ^ j = n := by
  have := Fact.mk hp
  obtain ⟨n', j, heq, hj, hprod, hrem⟩ := pptExtract_spec htable hn
  have hdvd (i : Nat) : (p : Int) ^ i ∣ n ↔ i ≤ padicValNat p n := by
    rw [← padicValNat_dvd_iff_le (by omega), ← Int.natCast_dvd_natCast, Nat.cast_pow]
  have hle := (hdvd j).mp (Dvd.intro_left n' hprod)
  have hindex : j = min (padicValNat p n) (len - 1) := by
    by_contra hne
    exact hrem (j + 1) (by omega) (by omega) ((hdvd (j + 1)).mpr (by omega))
  have hpow : 0 < (p : Int) ^ j := pow_pos (by exact_mod_cast hp.pos) j
  have hnonneg : 0 ≤ n' := by
    by_contra hneg
    have := mul_neg_of_neg_of_pos (not_le.mp hneg) hpow
    omega
  obtain ⟨n', rfl⟩ := Int.eq_ofNat_of_zero_le hnonneg
  exact ⟨n', j, heq, hindex, by exact_mod_cast hprod⟩

/-- Where the power above the table does not divide, the scan removes the prime entirely (R138). -/
theorem pptExtract_eq_primeFree {p : Nat} (hp : Nat.Prime p) {t : Table} {len : Nat}
    (htable : IsTableOf p t len) {n : Nat} (hpos : 1 ≤ n) (hn : IsWord n) (hdvd : ¬ p ^ len ∣ n) :
    pptExtract t len n = ((primeFree p n : Int), padicValNat p n) := by
  have := Fact.mk hp
  obtain ⟨n', j, heq, hindex, hprod⟩ := pptExtract_prime hp htable hpos hn
  rw [padicValNat_dvd_iff_le (by omega)] at hdvd
  obtain rfl : j = padicValNat p n := by omega
  rw [heq, primeFree, Nat.div_eq_of_eq_mul_left (pow_pos hp.pos _) hprod.symm]

/-! ### The statements -/

/-- The pair of `ppt_extract` as PPTEXTRACT leaves it in R0 and R1, both of them words. -/
theorem exists_exec_pptextract (s : State) :
    ∃ t, exec .pptextract s = .next t ∧
      t.r0.toInt = (pptExtract s.ppt s.pptLen.toInt s.a0.toInt).1 ∧
      t.r1.toInt = (pptExtract s.ppt s.pptLen.toInt s.a0.toInt).2 :=
  ⟨_, exec_pptextract s, toInt_toWord (pptExtract_fst_isWord _ _ (isWord_toInt s.a0)),
    toInt_toWord (pptExtract_snd_isWord s.ppt s.pptLen s.a0.toInt)⟩

/-- Settles O22: the scan of an empty table, and of the table of a base by `pptExtract_spec`. -/
theorem pptextractRemovesTheHighestEntry : Obligations.PptextractRemovesTheHighestEntry := by
  intro s
  refine ⟨fun hempty => ?_, fun p htable => ?_⟩
  · have hscan : pptExtract s.ppt s.pptLen.toInt s.a0.toInt = (s.a0.toInt, 0) := by
      rw [hempty]
      rfl
    refine ⟨_, exec_pptextract s, ?_, ?_⟩
    · rw [hscan]
      exact toWord_toInt s.a0
    · rw [hscan]
      rfl
  · obtain ⟨t, hexec, hr0, hr1⟩ := exists_exec_pptextract s
    obtain ⟨n', j, heq, hj, hprod, hrem⟩ :=
      pptExtract_spec (isTableOf_of_tableOf htable) (isWord_toInt s.a0)
    obtain ⟨-, hpos, -⟩ := htable
    rw [Int.toNat_of_nonneg (by omega)] at heq
    rw [heq] at hr0 hr1
    refine ⟨t, j, hexec, hr1, by omega, by rw [hr0, hprod], fun i hi hlt => ?_⟩
    exact hrem i hi (by omega)

/-- Settles O23: the index removed against the multiplicity, and the power above the table against PP_CEIL. -/
theorem pptextractRemovesTheMultiplicity : Obligations.PptextractRemovesTheMultiplicity := by
  intro s p hp htable hpos
  have := Fact.mk hp
  obtain ⟨t, hexec, hr0, hr1⟩ := exists_exec_pptextract s
  obtain ⟨-, -, -, -, hceil⟩ := isTableOf_of_tableOf htable
  obtain ⟨n, hn⟩ := Int.eq_ofNat_of_zero_le (show 0 ≤ s.a0.toInt by omega)
  obtain ⟨n', j, heq, hindex, hprod⟩ :=
    pptExtract_prime hp (isTableOf_of_tableOf htable) (n := n) (by omega) (hn ▸ isWord_toInt s.a0)
  obtain ⟨-, hlen, -⟩ := htable
  obtain ⟨len, hlength⟩ := Int.eq_ofNat_of_zero_le (show 0 ≤ s.pptLen.toInt by omega)
  rw [hlength, Int.toNat_natCast] at hceil heq hindex
  simp only [hn, hlength, heq] at hr0 hr1
  have hdvd (i : Nat) : (p : Int) ^ i ∣ n ↔ i ≤ padicValNat p n := by
    rw [← padicValNat_dvd_iff_le (by omega), ← Int.natCast_dvd_natCast, Nat.cast_pow]
  have hreduced : (p : Int) ∣ n' ↔ j + 1 ≤ padicValNat p n := by
    have hpow : (p : Int) ^ j ≠ 0 := pow_ne_zero _ (by exact_mod_cast hp.ne_zero)
    rw [← hdvd, pow_succ', ← hprod, Nat.cast_mul, Nat.cast_pow, mul_dvd_mul_iff_right hpow]
  refine ⟨t, hexec, ?_⟩
  rw [hr0, hr1, hn, hlength, Int.toNat_natCast, Int.toNat_natCast, Int.toNat_natCast]
  refine ⟨by exact_mod_cast hprod, by omega, ?_, ?_, fun hle hdvdLen => ?_⟩
  · rw [hreduced, hdvd]
    omega
  · rw [hdvd]
    omega
  · have := Int.le_of_dvd (by omega) hdvdLen
    omega

end Sys2Proof.Machine
end

section
/-! The accumulator in its domain (R150 to R158): the split long division is exact, both paths of `acc_add` add the
fraction truncated at the 18th place, and so the order of additions does not matter. -/

namespace Sys2Proof.Machine

/-! ### The split long division -/

/-- Quotient and remainder of a long division done in two factors. -/
theorem ediv_emod_mul_of_split {n d a b : Int} (hd : 0 < d) :
    n * (a * b) / d = n * a / d * b + n * a % d * b / d ∧ n * (a * b) % d = n * a % d * b % d := by
  refine (Int.ediv_emod_unique hd).mpr
    ⟨?_, Int.emod_nonneg _ hd.ne', Int.emod_lt_of_pos _ hd⟩
  have hfirst := Int.mul_ediv_add_emod (n * a) d
  have hsecond := Int.mul_ediv_add_emod (n * a % d * b) d
  calc n * a % d * b % d + d * (n * a / d * b + n * a % d * b / d)
      = d * (n * a / d) * b + (d * (n * a % d * b / d) + n * a % d * b % d) := by ring
    _ = (d * (n * a / d) + n * a % d) * b := by rw [hsecond]; ring
    _ = n * (a * b) := by rw [hfirst]; ring

/-- On its domain `muldiv1e9` is the floor division and the remainder (R151). -/
theorem muldiv1e9_eq {n d : Int} (hd : 1 ≤ d) (hdmax : d ≤ 67108) (hn : 0 ≤ n) (hnd : n ≤ d) :
    muldiv1e9 n d = (n * 10 ^ 9 / d, n * 10 ^ 9 % d) := by
  obtain ⟨hquot, hrem⟩ := ediv_emod_mul_of_split (n := n) (a := 32000) (b := 31250) (show 0 < d by omega)
  have hr0 : 0 ≤ n * 32000 % d := Int.emod_nonneg _ (by omega)
  have hrlt : n * 32000 % d < d := Int.emod_lt_of_pos _ (by omega)
  have hq0 : 0 ≤ n * 32000 / d := Int.ediv_nonneg (by omega) (by omega)
  have hqmax : n * 32000 / d ≤ 32000 :=
    Int.ediv_le_of_le_mul (by omega) (by rw [mul_comm]; exact Int.mul_le_mul_of_nonneg_left hnd (by decide))
  have hs0 : 0 ≤ n * 32000 % d * 31250 / d := Int.ediv_nonneg (by omega) (by omega)
  have hsmax : n * 32000 % d * 31250 / d < 31250 :=
    Int.ediv_lt_of_lt_mul (by omega) (by rw [mul_comm]; exact Int.mul_lt_mul_of_pos_left hrlt (by decide))
  have hword {z : Int} (h0 : 0 ≤ z) (hle : z ≤ 2147483647) : wrap32 z = z :=
    wrap32_of_isWord (isWord_of_nonneg h0 hle)
  simp only [muldiv1e9, Config.splitA, Config.splitB]
  rw [hword (z := n * 32000) (by omega) (by omega),
    divT_of_nonneg (by omega) (by simp only [maxWord]; omega) (by omega),
    remT_of_nonneg (by omega) (by omega),
    hword (z := n * 32000 % d * 31250) (by omega) (by omega),
    divT_of_nonneg (by omega) (by simp only [maxWord]; omega) (by omega),
    remT_of_nonneg (by omega) (by omega),
    hword (z := n * 32000 / d * 31250) (by omega) (by omega), hword (by omega) (by omega)]
  exact Prod.ext hquot.symm hrem.symm

/-! ### Adding to the limbs -/

/-- `acc_norm` after an addition to both limbs keeps their value modulo 1 (R150, R152). -/
theorem accVal_accNorm {hi lo x y : Int} (hlimbs : LimbPair hi lo) (hx0 : 0 ≤ x) (hx : x ≤ 10 ^ 9)
    (hy0 : 0 ≤ y) (hy : y ≤ 10 ^ 9) :
    accVal (accNorm (wrap32 (hi + x)) (wrap32 (lo + y))).1 (accNorm (wrap32 (hi + x)) (wrap32 (lo + y))).2 =
      (accVal hi lo + accVal x y) % 10 ^ 18 := by
  obtain ⟨hhi0, hhi, hlo0, hlo⟩ := hlimbs
  rw [Config.limb] at hhi hlo
  have hword {z : Int} (h0 : 0 ≤ z) (hle : z ≤ 2147483647) : wrap32 z = z :=
    wrap32_of_isWord (isWord_of_nonneg h0 hle)
  rw [hword (z := hi + x) (by omega) (by omega), hword (z := lo + y) (by omega) (by omega)]
  have hmod (z : Int) : smod z Config.limb = z % 1000000000 := smod_eq_emod (by decide)
  by_cases hcarry : Config.limb ≤ lo + y
  · simp only [accNorm, if_pos hcarry, hmod, hword (z := hi + x + 1) (by omega) (by omega)]
    simp only [accVal, Config.limb] at *
    omega
  · simp only [accNorm, if_neg hcarry, hmod]
    simp only [accVal, Config.limb] at *
    omega

/-- The direct path adds the fraction truncated at the 18th place (R153). -/
theorem accVal_accAddDirect {n d hi lo : Int} (hlimbs : LimbPair hi lo) (hd : 1 ≤ d) (hdmax : d ≤ 67108)
    (hn : 0 ≤ n) (hnd : n ≤ d) :
    accVal (accAddDirect n d hi lo).1 (accAddDirect n d hi lo).2 =
      (accVal hi lo + n * 10 ^ 18 / d) % 10 ^ 18 := by
  obtain ⟨hquot, -⟩ := ediv_emod_mul_of_split (n := n) (a := 10 ^ 9) (b := 10 ^ 9) (show 0 < d by omega)
  have hr0 : 0 ≤ n * 10 ^ 9 % d := Int.emod_nonneg _ (by omega)
  have hrlt : n * 10 ^ 9 % d < d := Int.emod_lt_of_pos _ (by omega)
  have hbound {z : Int} (hz : 0 ≤ z) (hle : z ≤ d) : 0 ≤ z * 10 ^ 9 / d ∧ z * 10 ^ 9 / d ≤ 10 ^ 9 :=
    ⟨Int.ediv_nonneg (by omega) (by omega), Int.ediv_le_of_le_mul (by omega)
      (by rw [mul_comm]; exact Int.mul_le_mul_of_nonneg_left hle (by decide))⟩
  obtain ⟨hfirst0, hfirst⟩ := hbound hn hnd
  obtain ⟨hsecond0, hsecond⟩ := hbound hr0 hrlt.le
  have hvalue : accVal (n * 10 ^ 9 / d) (n * 10 ^ 9 % d * 10 ^ 9 / d) = n * 10 ^ 18 / d := by
    rw [accVal, Config.limb]
    exact hquot.symm
  simp only [accAddDirect, muldiv1e9_eq hd hdmax hn hnd, muldiv1e9_eq hd hdmax hr0 hrlt.le]
  rw [accVal_accNorm hlimbs hfirst0 hfirst hsecond0 hsecond, hvalue]

/-- A fraction over a multiple of 256 is the fraction of the high part and that of the low bits; the first needs
no more than 18 places (R154). -/
theorem fraction_split {n d : Int} (hd : 0 < d) (hdvd : d ∣ 10 ^ 18) :
    n * 10 ^ 18 / (256 * d) =
      n % 256 * 3906250 / d * 10 ^ 9 + n % 256 * 3906250 % d * 10 ^ 9 / d + n / 256 * 10 ^ 18 / d := by
  obtain ⟨hquot, -⟩ := ediv_emod_mul_of_split (n := n % 256) (a := 3906250) (b := 10 ^ 9) hd
  have hsum : n * 10 ^ 18 = 256 * (n % 256 * (3906250 * 10 ^ 9) + n / 256 * 10 ^ 18) := by omega
  rw [hsum, Int.mul_ediv_mul_of_pos _ _ (by decide),
    Int.add_ediv_of_dvd_right (hdvd.mul_left _), hquot]

/-- The compensating term of the rescaled path, added to the limbs (R154). -/
theorem accRescale_spec {n d hi lo : Int} (hlimbs : LimbPair hi lo) (hd : 1 ≤ d) (hdmax : d ≤ 67108)
    (hn : 0 ≤ n) (hnd : n < 256 * d) :
    ∃ hi' lo', accRescale n (256 * d) hi lo = (n / 256, d, hi', lo') ∧ LimbPair hi' lo' ∧
      accVal hi' lo' = (accVal hi lo +
        (n % 256 * 3906250 / d * 10 ^ 9 + n % 256 * 3906250 % d * 10 ^ 9 / d)) % 10 ^ 18 := by
  have hc0 : 0 ≤ n % 256 * 3906250 := by omega
  have hc : n % 256 * 3906250 ≤ 10 ^ 9 := by omega
  have hq0 : 0 ≤ n % 256 * 3906250 / d := Int.ediv_nonneg hc0 (by omega)
  have hq : n % 256 * 3906250 / d ≤ 10 ^ 9 := (Int.ediv_le_self d hc0).trans hc
  have hr0 : 0 ≤ n % 256 * 3906250 % d := Int.emod_nonneg _ (by omega)
  have hrlt : n % 256 * 3906250 % d < d := Int.emod_lt_of_pos _ (by omega)
  have hs0 : 0 ≤ n % 256 * 3906250 % d * 10 ^ 9 / d := Int.ediv_nonneg (by omega) (by omega)
  have hs : n % 256 * 3906250 % d * 10 ^ 9 / d ≤ 10 ^ 9 := Int.ediv_le_of_le_mul (by omega)
    (by rw [mul_comm]; exact Int.mul_le_mul_of_nonneg_left hrlt.le (by decide))
  have hword : IsWord (n % 256 * 3906250) := isWord_of_nonneg hc0 (by simp only [maxWord]; omega)
  simp only [accRescale, Config.accRescaleFactor, Config.accComp]
  rw [remT_of_nonneg hn (by decide), divT_of_nonneg hn (by simp only [maxWord]; omega) (by decide),
    divT_of_nonneg (by omega) (by simp only [maxWord]; omega) (by decide),
    Int.mul_ediv_cancel_left d (by decide), wrap32_of_isWord hword,
    divT_of_nonneg hc0 (by simp only [maxWord]; omega) (by omega), remT_of_nonneg hc0 (by omega),
    muldiv1e9_eq hd hdmax hr0 hrlt.le]
  exact ⟨_, _, rfl, accNorm_limbPair _ _, accVal_accNorm hlimbs hq0 hq hs0 hs⟩

/-- In its domain `acc_add` adds the fraction truncated at the 18th decimal place, modulo 1 (R158). -/
theorem accVal_accAdd {n d hi lo : Int} (hlimbs : LimbPair hi lo) (hdom : AccDomain n d) :
    accVal (accAdd n d hi lo).1 (accAdd n d hi lo).2 = (accVal hi lo + n * 10 ^ 18 / d) % 10 ^ 18 := by
  obtain ⟨hd, hdmax, hn, hnd⟩ | ⟨e, hlow, hhigh, rfl, hn, hnd⟩ := hdom
  · rw [accAdd, if_neg (not_lt.mpr hdmax)]
    rw [Config.accThresh] at hdmax
    exact accVal_accAddDirect hlimbs hd (by omega) hn hnd
  · obtain ⟨f, rfl⟩ := Nat.exists_eq_add_of_le hlow
    have hpow : (2 : Int) ^ (16 + f) = 256 * 2 ^ (8 + f) := by ring
    have hlarge : (2 : Int) ^ 16 ≤ 2 ^ (16 + f) := pow_le_pow_right₀ (by decide) hlow
    have hd : (1 : Int) ≤ 2 ^ (8 + f) := one_le_pow₀ (by decide)
    have hdmax : (2 : Int) ^ (8 + f) ≤ 2 ^ 16 := pow_le_pow_right₀ (by decide) (by omega)
    have hdvd : (2 : Int) ^ (8 + f) ∣ 10 ^ 18 :=
      (pow_dvd_pow 2 (show 8 + f ≤ 18 by omega)).trans (pow_dvd_pow_of_dvd (by decide) 18)
    rw [hpow] at hnd
    obtain ⟨hi', lo', hrescale, hlimbs', hvalue⟩ :=
      accRescale_spec hlimbs hd (by omega) hn hnd
    rw [accAdd, if_pos (by rw [Config.accThresh]; omega), hpow, hrescale]
    show accVal (accAddDirect (n / 256) (2 ^ (8 + f)) hi' lo').1 _ = _
    rw [accVal_accAddDirect hlimbs' hd (by omega) (by omega) (by omega), hvalue,
      fraction_split (by omega) hdvd, Int.emod_add_emod, add_assoc]

/-! ### Sums of fractions -/

/-- Limbs in range are determined by their value (R150). -/
theorem eq_of_accVal_eq {a b : Int × Int} (ha : LimbPair a.1 a.2) (hb : LimbPair b.1 b.2)
    (h : accVal a.1 a.2 = accVal b.1 b.2) : a = b := by
  obtain ⟨-, -, ha0, halt⟩ := ha
  obtain ⟨-, -, hb0, hblt⟩ := hb
  simp only [accVal, Config.limb] at *
  exact Prod.ext (by omega) (by omega)

/-- Adding in-domain fractions one after another adds their sum, modulo 1 (R157). -/
theorem accVal_foldl_accAdd {l : List (Int × Int)} (hdom : ∀ f ∈ l, AccDomain f.1 f.2) {acc : Int × Int}
    (hlimbs : LimbPair acc.1 acc.2) :
    LimbPair (l.foldl (fun acc f => accAdd f.1 f.2 acc.1 acc.2) acc).1
        (l.foldl (fun acc f => accAdd f.1 f.2 acc.1 acc.2) acc).2 ∧
      accVal (l.foldl (fun acc f => accAdd f.1 f.2 acc.1 acc.2) acc).1
          (l.foldl (fun acc f => accAdd f.1 f.2 acc.1 acc.2) acc).2 =
        (accVal acc.1 acc.2 + (l.map fun f => f.1 * 10 ^ 18 / f.2).sum) % 10 ^ 18 := by
  induction l generalizing acc with
  | nil =>
    refine ⟨hlimbs, ?_⟩
    obtain ⟨h1, h2, h3, h4⟩ := hlimbs
    simp only [accVal, Config.limb, List.foldl_nil, List.map_nil, List.sum_nil] at *
    omega
  | cons f l ih =>
    obtain ⟨hfirst, hrest⟩ := List.forall_mem_cons.mp hdom
    obtain ⟨hpair, hvalue⟩ := ih hrest (accAdd_limbPair f.1 f.2 acc.1 acc.2)
    refine ⟨hpair, hvalue.trans ?_⟩
    rw [accVal_accAdd hlimbs hfirst, List.map_cons, List.sum_cons, Int.emod_add_emod, add_assoc]

/-! ### The statements -/

/-- Settles O25: `accVal_accAdd` on the registers, the new limbs being words. -/
theorem accaddAddsTheFractionExactly : Obligations.AccaddAddsTheFractionExactly := by
  intro s hlimbs hdom
  have hden : 0 < s.a1.toInt := by
    obtain ⟨hd, -⟩ | ⟨e, -, -, hd, -⟩ := hdom
    · omega
    · rw [hd]
      exact pow_pos (by decide) e
  obtain ⟨hhi, hlo⟩ := toInt_toWord_of_limbPair
    (accAdd_limbPair s.a0.toInt s.a1.toInt s.accHi.toInt s.accLo.toInt)
  refine ⟨_, exec_accadd_of_valid hden Prod.mk.eta.symm, ?_⟩
  rw [complete_accHi, complete_accLo, setR1_accHi, setR1_accLo, setR0_accHi, setR0_accLo,
    setAcc_accHi, setAcc_accLo, hhi, hlo]
  exact accVal_accAdd hlimbs hdom

/-- Settles O26: a sum does not depend on the order, and the limbs are determined by their value. -/
theorem accumulationIsOrderIndependent : Obligations.AccumulationIsOrderIndependent := by
  intro l₁ l₂ hi lo hperm hdom hlimbs
  obtain ⟨hpair₁, hvalue₁⟩ := accVal_foldl_accAdd hdom (acc := (hi, lo)) hlimbs
  obtain ⟨hpair₂, hvalue₂⟩ := accVal_foldl_accAdd
    (fun f hf => hdom f (hperm.mem_iff.mpr hf)) (acc := (hi, lo)) hlimbs
  refine eq_of_accVal_eq hpair₁ hpair₂ ?_
  rw [hvalue₁, hvalue₂, (hperm.map _).sum_eq]

/-- Settles O27: the two short divisions as one long one. -/
theorem splitLongDivisionIsExact : Obligations.SplitLongDivisionIsExact :=
  fun _ _ => muldiv1e9_eq

end Sys2Proof.Machine
end

section
/-! The prime loop of DIGIT9 (R172): it goes through the primes up to 3·N in order, so what it ends with is a fold
over their list; from that the limbs, the table it leaves (R182), its independence of the table before (R33), and
the invariant of the state over every step. -/

namespace Sys2Proof.Machine

/-! ### The number of terms -/

/-- The bounds of an accepted index's number of terms (R171). -/
theorem termCount_bounds {index : Int} (hindex : IndexOk index) :
    termCount index = (index + 19) * 100 / 113 ∧ 16 ≤ termCount index ∧ 3 * termCount index ≤ 46340 := by
  obtain ⟨h0, hmax⟩ := hindex
  rw [Config.indexMax] at hmax
  have heq := termCount_eq_ediv h0 (by rw [maxWord]; omega)
  omega

/-- The largest number a prime of an accepted index can be, as a natural number (R172). -/
theorem exists_primeBound {index : Int} (hindex : IndexOk index) :
    ∃ b : Nat, 3 * termCount index = b ∧ 48 ≤ b ∧ b ≤ 46340 := by
  obtain ⟨-, hlow, hhigh⟩ := termCount_bounds hindex
  exact ⟨(3 * termCount index).toNat, by omega, by omega, by omega⟩

/-! ### The primes the loop goes through -/

/-- The primes from `a` to `b`, ascending. -/
def primesFrom (a b : Nat) : List Nat := (List.range' a (b + 1 - a)).filter Nat.Prime

theorem mem_primesFrom {a b q : Nat} : q ∈ primesFrom a b ↔ Nat.Prime q ∧ a ≤ q ∧ q ≤ b := by
  rw [primesFrom, List.mem_filter, List.mem_range'_1, decide_eq_true_eq, and_comm]
  exact and_congr_right fun _ => by omega

theorem primesFrom_of_lt {a b : Nat} (h : b < a) : primesFrom a b = [] := by
  rw [primesFrom, Nat.sub_eq_zero_of_le h, List.range'_zero, List.filter_nil]

theorem primesFrom_of_le {a b : Nat} (h : a ≤ b) :
    primesFrom a b = if Nat.Prime a then a :: primesFrom (a + 1) b else primesFrom (a + 1) b := by
  rw [primesFrom, show b + 1 - a = (b + 1 - (a + 1)) + 1 by omega, List.range'_succ, List.filter_cons]
  simp only [decide_eq_true_eq, primesFrom]

/-- Numbers that are no primes can be left out at the front. -/
theorem primesFrom_eq_of_gap {a c b : Nat} (hac : a ≤ c) (hgap : ∀ r, Nat.Prime r → a ≤ r → c ≤ r) :
    primesFrom a b = primesFrom c b := by
  induction c, hac using Nat.le_induction with
  | base => rfl
  | succ c hac ih =>
    have hnot : ¬ Nat.Prime c := fun hc => absurd (hgap c hc hac) (by omega)
    rw [ih fun r hr har => (hgap r hr har).trans' (Nat.le_succ c)]
    by_cases hcb : c ≤ b
    · rw [primesFrom_of_le hcb, if_neg hnot]
    · rw [primesFrom_of_lt (by omega), primesFrom_of_lt (by omega)]

theorem pairwise_primesFrom (a b : Nat) : (primesFrom a b).Pairwise (· < ·) :=
  List.Pairwise.filter _ List.pairwise_lt_range'

/-- A list of primes up to a bound of at least 2 starts with 2 (R172). -/
theorem primesFrom_two {b : Nat} (hb : 2 ≤ b) : primesFrom 2 b = 2 :: primesFrom 3 b := by
  rw [primesFrom_of_le hb, if_pos Nat.prime_two]

/-! ### The loop as a fold -/

/-- The prime pass on what is carried from prime to prime, as a fold takes it (R172). -/
def passPrime (n index : Int) (d : DigitState) (q : Nat) : DigitState := primePass n index q d

/-- With fuel for every number up to the bound, the prime loop is the fold over the primes up to it (R172). -/
theorem primeLoop_eq_foldl {n : Int} {b : Nat} (hb : 3 * n = b) (hlimit : b ≤ 46340) (index : Int)
    {fuel p : Nat} (hp : Nat.Prime p) (hfuel : b < p + fuel) (d : DigitState) :
    primeLoop n index fuel p d =
      (primesFrom p b).foldl (passPrime n index) d := by
  induction fuel generalizing p d with
  | zero => rw [primesFrom_of_lt (a := p) (by omega)]; rfl
  | succ fuel ih =>
    rw [primeLoop]
    by_cases hle : p ≤ b
    · obtain ⟨q, hnext, hq, hpq, -, hleast⟩ :=
        nextPrime_natCast (n := p) hp.one_lt.le (by omega)
      rw [if_pos (by omega), hnext, ih hq (by omega), primesFrom_of_le hle, if_pos hp, List.foldl_cons,
        primesFrom_eq_of_gap (a := p + 1) hpq fun r hr hpr => hleast r hr hpr]
      rfl
    · rw [if_neg (by omega), primesFrom_of_lt (by omega)]
      rfl

/-- What `digit9` starts its loop with (R172). -/
def digitStart (t : Table) : DigitState := { hi := 0, lo := 0, table := t, len := 0, skipped := false }

/-- `digit9` is the fold of the prime pass over the primes up to 3·N (R172). -/
theorem digit9_eq_foldl {index : Int} (hindex : IndexOk index) {b : Nat}
    (hb : 3 * termCount index = b) (t : Table) :
    digit9 index t =
      (primesFrom 2 b).foldl (passPrime (termCount index) index) (digitStart t) := by
  obtain ⟨-, -, hhigh⟩ := termCount_bounds hindex
  have hfold := primeLoop_eq_foldl hb (by omega) index (fuel := b) Nat.prime_two (by omega)
    (digitStart t)
  rw [← hfold, digit9]
  simp only [hb, Int.toNat_natCast]
  rfl

/-! ### One prime -/

/-- All that one prime pass can do: skip the prime, or fold its subtotal into the limbs (R172 to R177). -/
theorem primePass_cases (n index p : Int) (d : DigitState) :
    (primeSetup (pptBuild p d.table).1 (pptBuild p d.table).2 p n index = none ∧
      primePass n index p d =
        { d with table := (pptBuild p d.table).1, len := (pptBuild p d.table).2, skipped := true }) ∨
    (∃ u f, primeSetup (pptBuild p d.table).1 (pptBuild p d.table).2 p n index = some u ∧
      f = mulmod (termSum (pptBuild p d.table).1 (pptBuild p d.table).2 p u.e u.m u.v n) u.shift u.m ∧
      primePass n index p d =
        { d with hi := (accAdd f u.m d.hi d.lo).1, lo := (accAdd f u.m d.hi d.lo).2,
                 table := (pptBuild p d.table).1, len := (pptBuild p d.table).2 }) := by
  unfold primePass
  cases hsetup : primeSetup (pptBuild p d.table).1 (pptBuild p d.table).2 p n index with
  | none => exact .inl ⟨rfl, by simp only [hsetup]⟩
  | some u => exact .inr ⟨u, _, rfl, rfl, by simp only [hsetup]⟩

/-- A prime pass leaves the table of its prime (R172). -/
theorem primePass_table (n index p : Int) (d : DigitState) :
    (primePass n index p d).table = (pptBuild p d.table).1 ∧
      (primePass n index p d).len = (pptBuild p d.table).2 := by
  obtain ⟨-, heq⟩ | ⟨u, f, -, -, heq⟩ := primePass_cases n index p d <;> rw [heq] <;> exact ⟨rfl, rfl⟩

/-- A prime pass keeps the limbs in range (R152, R177). -/
theorem primePass_limbPair {d : DigitState} (hlimbs : LimbPair d.hi d.lo) (n index p : Int) :
    LimbPair (primePass n index p d).hi (primePass n index p d).lo := by
  obtain ⟨-, heq⟩ | ⟨u, f, -, -, heq⟩ := primePass_cases n index p d
  · rw [heq]
    exact hlimbs
  · rw [heq]
    exact accAdd_limbPair f u.m d.hi d.lo

/-- The table of the base 2 fills all sixteen entries (R136). -/
theorem pptBuild_two_eq (t t' : Table) : pptBuild 2 t = pptBuild 2 t' := by
  have hlen (t : Table) : (pptBuild 2 t).2 = 16 := by
    rw [pptBuild_snd (le_refl 2)]
    decide
  refine Prod.ext (Vector.ext fun j hj => ?_) ((hlen t).trans (hlen t').symm)
  rw [pptBuild_fst_getElem (le_refl 2) t hj, pptBuild_fst_getElem (le_refl 2) t' hj, hlen, hlen,
    if_pos hj, if_pos hj]

/-! ### What DIGIT9 ends with -/

section

variable {index : Int} (hindex : IndexOk index) (t : Table)
include hindex

/-- `digit9` ends with limbs in range (R27, R170). -/
theorem digit9_limbPair : LimbPair (digit9 index t).hi (digit9 index t).lo := by
  obtain ⟨b, hb, -⟩ := exists_primeBound hindex
  have hzero : LimbPair 0 0 := ⟨le_refl 0, by decide, le_refl 0, by decide⟩
  rw [digit9_eq_foldl hindex hb]
  refine List.foldlRecOn (motive := fun d : DigitState => LimbPair d.hi d.lo) _ _ ?_
    fun d hd q _ => ?_
  · exact hzero
  · exact primePass_limbPair hd _ _ _

/-- `digit9` ends with the table of the largest prime up to 3·N (R182). -/
theorem exists_digit9_table :
    ∃ (p : Nat) (t' : Table), Nat.Prime p ∧ (p : Int) ≤ 3 * termCount index ∧
      (∀ q : Nat, Nat.Prime q → (q : Int) ≤ 3 * termCount index → q ≤ p) ∧
      (digit9 index t).table = (pptBuild p t').1 ∧ (digit9 index t).len = (pptBuild p t').2 := by
  obtain ⟨b, hb, hlow, -⟩ := exists_primeBound hindex
  rw [digit9_eq_foldl hindex hb, hb]
  have hmem {q : Nat} : q ∈ primesFrom 2 b ↔ Nat.Prime q ∧ 2 ≤ q ∧ q ≤ b := mem_primesFrom
  have hsorted := pairwise_primesFrom 2 b
  obtain hnil | ⟨l, p, hl⟩ := List.eq_nil_or_concat (primesFrom 2 b)
  · rw [primesFrom_two (by omega)] at hnil
    cases hnil
  rw [List.concat_eq_append] at hl
  rw [hl] at hmem hsorted ⊢
  obtain ⟨hp, -, hpb⟩ := hmem.mp (List.mem_append_right l (List.mem_singleton_self p))
  obtain ⟨htable, hlen⟩ := primePass_table (termCount index) index p
    (l.foldl (passPrime (termCount index) index) (digitStart t))
  refine ⟨p, (l.foldl (passPrime (termCount index) index) (digitStart t)).table, hp, by exact_mod_cast hpb, fun q hq hqb => ?_, ?_, ?_⟩
  · obtain hfront | hlast := List.mem_append.mp (hmem.mpr ⟨hq, hq.two_le, by exact_mod_cast hqb⟩)
    · exact ((List.pairwise_append.mp hsorted).2.2 q hfront p (List.mem_singleton_self p)).le
    · exact (List.mem_singleton.mp hlast).le
  · rw [List.foldl_append]
    exact htable
  · rw [List.foldl_append]
    exact hlen

/-- `digit9` does not depend on the table it starts from: the prime 2 comes first (R33). -/
theorem digit9_congr (t' : Table) : digit9 index t = digit9 index t' := by
  obtain ⟨b, hb, hlow, -⟩ := exists_primeBound hindex
  have hfirst : passPrime (termCount index) index (digitStart t) 2 =
      passPrime (termCount index) index (digitStart t') 2 := by
    simp only [passPrime, Nat.cast_ofNat, primePass, digitStart, pptBuild_two_eq t t']
  rw [digit9_eq_foldl hindex hb, digit9_eq_foldl hindex hb, primesFrom_two (by omega),
    List.foldl_cons, List.foldl_cons, hfirst]

end

/-- The length of the table of a prime up to 3·N that is at least 47 (R136, R182). -/
theorem pptBuild_snd_eq_two_or_three {p : Nat} (hlow : 47 ≤ p) (hhigh : p ≤ 46340) (t : Table) :
    (pptBuild p t).2 = 2 ∨ (pptBuild p t).2 = 3 := by
  have hpos : 1 ≤ Nat.log p 46340 := Nat.log_pos (by omega) hhigh
  have hlt : Nat.log p 46340 < 3 := Nat.log_lt_of_lt_pow (by decide)
    (lt_of_lt_of_le (by decide) (Nat.pow_le_pow_left hlow 3))
  rw [pptBuild_snd (by omega), Int.toNat_natCast]
  omega

/-! ### The invariant of the state -/

/-- A raised cause is a STATUS the block can write (R25, R220). -/
theorem statusOk_raiseCause {c : Cause} (hc : c ≠ .none) (s : State) : (raiseCause c s).StatusOk := by
  unfold State.StatusOk
  rw [raiseCause_status]
  cases c with
  | none => exact absurd rfl hc
  | illegalCommand | invalidInput | outOfRange => decide

/-- A completion is a STATUS the block can write (R25). -/
theorem statusOk_complete (skip2 : Bool) (s : State) : (complete skip2 s).StatusOk := by
  unfold State.StatusOk
  rw [complete_status, statusCompleted]
  cases skip2 <;> cases statusFault s.status <;> decide

/-- Limbs in range in the accumulator registers (R27). -/
theorem limbsOk_of_limbPair {h l : Int} (hlimbs : LimbPair h l) {t : State} (hhi : t.accHi = toWord h)
    (hlo : t.accLo = toWord l) : t.LimbsOk := by
  unfold State.LimbsOk
  rw [hhi, hlo]
  exact limbsOk_setAcc hlimbs t

/-- A completed command keeps limbs and table well formed (R27, R28). -/
theorem exec_of_accepted_limbsOk_tableOk {i : Instr} {s t : State} (hvalid : ¬ InvalidOperands s i)
    (hrange : ¬ (i = .digit9 ∧ 17436 < s.a0.toInt)) (hlimbs : s.LimbsOk) (htable : s.TableOk)
    (hexec : exec i s = .next t) : t.LimbsOk ∧ t.TableOk := by
  cases i with
  | nop | powmod | invmod | isprime | nextprime | pptextract =>
    obtain ⟨-, -, -, hacc, hppt⟩ := exec_namedWrites hexec
    obtain ⟨hhi, hlo⟩ := hacc nofun nofun nofun
    obtain ⟨hentries, hlen⟩ := hppt nofun nofun
    unfold State.LimbsOk State.TableOk State.TableOf at *
    rw [hhi, hlo, hentries, hlen]
    exact ⟨hlimbs, htable⟩
  | pptbuild =>
    have hbase := not_lt.mp hvalid
    obtain rfl := Host.Outcome.next.inj ((exec_pptbuild_of_valid hbase).symm.trans hexec)
    exact ⟨hlimbs, .inr ⟨_, tableOf_setTable_pptBuild hbase s.ppt s⟩⟩
  | accadd =>
    obtain rfl := Host.Outcome.next.inj
      ((exec_accadd_of_valid (not_le.mp hvalid) Prod.mk.eta.symm).symm.trans hexec)
    exact ⟨limbsOk_setAcc (accAdd_limbPair _ _ _ _) s, htable⟩
  | accclr =>
    obtain rfl := Host.Outcome.next.inj ((exec_accclr s).symm.trans hexec)
    exact ⟨limbsOk_setAcc ⟨le_refl 0, by decide, le_refl 0, by decide⟩ s, htable⟩
  | digit9 =>
    have hmax : s.a0.toInt ≤ 17436 := not_lt.mp fun hlt => hrange ⟨rfl, hlt⟩
    have hindex : IndexOk s.a0.toInt := ⟨not_lt.mp hvalid, hmax⟩
    obtain rfl := Host.Outcome.next.inj ((exec_digit9_of_valid hindex).symm.trans hexec)
    obtain ⟨p, t', hp, -, -, htab, hlen⟩ := exists_digit9_table hindex s.ppt
    rw [htab, hlen]
    exact ⟨limbsOk_of_limbPair (digit9_limbPair hindex s.ppt) rfl rfl, .inr
      ⟨p, tableOf_setTable_pptBuild (by exact_mod_cast hp.two_le) t' s⟩⟩

/-- Every command keeps the invariant (R25, R27, R28). -/
theorem inv_exec {i : Instr} {s t : State} (hinv : s.Inv) (hexec : exec i s = .next t) : t.Inv := by
  obtain ⟨hlimbs, htable, -⟩ := hinv
  obtain ⟨-, -, hend⟩ | ⟨-, -, hend⟩ | ⟨hvalid, hrange, skip2, u, hend, -⟩ := exec_cases i s
  · obtain rfl := Host.Outcome.next.inj (hend.symm.trans hexec)
    exact ⟨hlimbs, htable, statusOk_raiseCause (by decide) s⟩
  · obtain rfl := Host.Outcome.next.inj (hend.symm.trans hexec)
    exact ⟨hlimbs, htable, statusOk_raiseCause (by decide) s⟩
  · obtain ⟨hlimbs', htable'⟩ :=
      exec_of_accepted_limbsOk_tableOk hvalid hrange hlimbs htable hexec
    obtain rfl := Host.Outcome.next.inj (hend.symm.trans hexec)
    exact ⟨hlimbs', htable', statusOk_complete skip2 u⟩

/-- Every host write keeps the invariant (R53, R54). -/
theorem inv_hostWrite {addr : Address} {v : Word} {s t : State} (hinv : s.Inv)
    (hwrite : hostWrite addr v s = .next t) : t.Inv := by
  by_cases hcmd : addr = cmdAddr
  · subst hcmd
    rw [hostWrite_cmdAddr] at hwrite
    have hstored : ({ s with cmd := v } : State).Inv := hinv
    obtain ⟨i, -, hrun⟩ | ⟨-, -, hrun⟩ := runCommand_cases v { s with cmd := v }
    · exact inv_exec hstored (hrun.symm.trans hwrite)
    · obtain rfl := Host.Outcome.next.inj (hrun.symm.trans hwrite)
      obtain ⟨hlimbs, htable, -⟩ := hstored
      exact ⟨hlimbs, htable, statusOk_raiseCause (by decide) _⟩
  · obtain rfl := Host.Outcome.next.inj ((hostWrite_of_ne_cmdAddr s v hcmd).symm.trans hwrite)
    obtain ⟨-, h⟩ | ⟨-, h⟩ | ⟨-, h⟩ | ⟨-, h⟩ | h := storeAddr_cases s addr v
    all_goals
      rw [h]
      exact hinv

/-! ### The statements -/

/-- Settles O30: the two refusals, STATUS as a word. -/
theorem digit9RefusesOtherIndices : Obligations.Digit9RefusesOtherIndices := by
  refine fun s => ⟨fun hneg => ?_, fun hmax => ?_⟩
  · rw [exec_digit9_of_invalid hneg, raiseCause_invalidInput]
  · rw [exec_digit9_of_outOfRange hmax, raiseCause, statusRaised_outOfRange]

/-- Settles O34: the quotient on every word at least 0, the rest linear arithmetic on it. -/
theorem termCountAndIndexMax : Obligations.TermCountAndIndexMax := by
  intro index h0 hword
  have heq := termCount_eq_ediv h0 hword
  rw [Config.ppCeil]
  omega

/-- Settles O29: the completion with what `digit9` ends with, each part of it a word. -/
theorem digit9Completes : Obligations.Digit9Completes := by
  intro s hindex
  have hlimbs := digit9_limbPair hindex s.ppt
  obtain ⟨hhi, hlo⟩ := toInt_toWord_of_limbPair hlimbs
  obtain ⟨heq, hlow, hhigh⟩ := termCount_bounds hindex
  obtain ⟨p, t', hp, -, -, -, hlen⟩ := exists_digit9_table hindex s.ppt
  have hcount : (toWord (termCount s.a0.toInt)).toInt = termCount s.a0.toInt :=
    toInt_toWord (isWord_of_nonneg (by omega) (by simp only [maxWord]; omega))
  have hlength : (toWord (digit9 s.a0.toInt s.ppt).len).toInt = (digit9 s.a0.toInt s.ppt).len := by
    rw [hlen, toInt_toWord_pptBuild_snd (by exact_mod_cast hp.two_le),
      pptBuild_snd (by exact_mod_cast hp.two_le)]
    omega
  refine ⟨_, exec_digit9_of_valid hindex, rfl, ?_, ?_, limbsOk_of_limbPair hlimbs rfl rfl, hcount.trans heq, hhi, hlo,
    rfl, hlength, ?_⟩
  · exact hhi.ge.trans' hlimbs.1
  · have hlt := hlimbs.2.1
    rw [Config.limb] at hlt
    exact hhi.le.trans (by omega)
  · cases hskip : (digit9 s.a0.toInt s.ppt).skipped with
    | false => exact statusCompleted_false s.status
    | true => exact statusCompleted_true s.status

/-- Settles O31: the last of the primes gone through, of at least 47 and at most PP_CEIL. -/
theorem digit9LeavesTheTableOfTheLastPrime : Obligations.Digit9LeavesTheTableOfTheLastPrime := by
  intro s hindex
  obtain ⟨-, hlow, hhigh⟩ := termCount_bounds hindex
  obtain ⟨p, t', hp, hple, hmax, htab, hlen⟩ := exists_digit9_table hindex s.ppt
  have hp47 : 47 ≤ p := hmax 47 (by norm_num) (by push_cast; omega)
  have htable := tableOf_setTable_pptBuild (p := p) (by exact_mod_cast hp.two_le) t' s
  refine ⟨_, p, exec_digit9_of_valid hindex, hp, hple, hmax, ?_, ?_⟩
  · rw [htab, hlen]
    exact htable
  · show toWord (digit9 s.a0.toInt s.ppt).len = 2 ∨ toWord (digit9 s.a0.toInt s.ppt).len = 3
    rw [hlen]
    obtain h | h := pptBuild_snd_eq_two_or_three hp47 (by omega) t' <;> rw [h]
    · exact .inl rfl
    · exact .inr rfl

/-- Settles O33: `digit9` depends on the index alone, and so does what the command writes from it. -/
theorem digit9DependsOnTheIndexAlone : Obligations.Digit9DependsOnTheIndexAlone := by
  intro s₁ s₂ ha0 hindex
  have hindex₂ : IndexOk s₂.a0.toInt := ha0 ▸ hindex
  refine ⟨_, _, exec_digit9_of_valid hindex, exec_digit9_of_valid hindex₂, ?_⟩
  rw [← ha0, digit9_congr hindex s₂.ppt s₁.ppt]
  refine ⟨rfl, rfl, rfl, rfl, rfl, rfl, ?_⟩
  simp only [complete_status, statusCompleted, statusSkip2_packStatus]

/-- Settles O45: fuel beyond the bits of the exponent, the words, the numbers up to 3·N changes nothing. -/
theorem loopBoundsNeverDecide : Obligations.LoopBoundsNeverDecide := by
  refine ⟨fun m r a b f _ hword hf => ?_, fun c f hc hf => nextPrimeFrom_fuel hc hf,
    fun index f d hindex hf => ?_⟩
  · have h31 : b < 2 ^ 31 := by simp only [maxWord] at hword; omega
    exact powModLoop_fuel (h31.trans_le (pow_le_pow_right₀ (by decide) hf)) h31
  · obtain ⟨b, hb, -, hlimit⟩ := exists_primeBound hindex
    rw [hb, Int.toNat_natCast] at hf ⊢
    have hfold {fuel : Nat} (hfuel : b ≤ fuel) :=
      primeLoop_eq_foldl hb hlimit index (fuel := fuel) Nat.prime_two (by omega) d
    exact (hfold hf).trans (hfold (le_refl b)).symm

/-- Settles O60: of the events only a write and a reset touch limbs, table or STATUS, and both keep the
invariant. -/
theorem everyStepKeepsTheInvariant : Obligations.EveryStepKeepsTheInvariant := by
  intro s t hinv hstep
  match hpending : s.pending with
  | [] =>
    obtain rfl := Host.Outcome.next.inj ((step_of_nil hpending).symm.trans hstep)
    exact hinv
  | .read addr :: rest =>
    obtain rfl := Host.Outcome.next.inj ((step_of_read hpending).symm.trans hstep)
    exact hinv
  | .write addr v :: rest =>
    have htaken : ({ s with pending := rest, returned := none } : State).Inv := hinv
    exact inv_hostWrite htaken ((step_of_write hpending).symm.trans hstep)
  | .reset :: rest =>
    obtain rfl := Host.Outcome.next.inj ((step_of_reset hpending).symm.trans hstep)
    exact resetMeetsTheInvariant

end Sys2Proof.Machine
end

section
/-! The setup of each prime of DIGIT9 (R173 to R175): exponent, modulus, starting exponent and shift factor, and the
indices at which the prime 2 is skipped. -/

namespace Sys2Proof.Machine

/-! ### The exponent of the prime 2 -/

/-- The exponent of the prime 2 (R174): the bits of 3·N, plus N, less the index. -/
def exponentTwo (index : Int) : Int :=
  (Nat.log 2 (3 * termCount index).toNat : Int) + termCount index - index

/-- The bits of 3·N are those of a power of two up to PP_CEIL (R174). -/
theorem log_two_bounds {index : Int} (hindex : IndexOk index) :
    Nat.log 2 (3 * termCount index).toNat ≤ 15 ∧
      2 ^ Nat.log 2 (3 * termCount index).toNat ≤ 3 * termCount index ∧
      3 * termCount index < 2 * 2 ^ Nat.log 2 (3 * termCount index).toNat := by
  obtain ⟨b, hb, hlow, hhigh⟩ := exists_primeBound hindex
  rw [hb, Int.toNat_natCast]
  have hmax : Nat.log 2 b < 16 := Nat.log_lt_of_lt_pow (by omega) (by omega)
  have hle : 2 ^ Nat.log 2 b ≤ b := Nat.pow_log_le_self 2 (by omega)
  have hlt : b < 2 ^ Nat.log 2 b * 2 := Nat.lt_pow_succ_log_self Nat.one_lt_two b
  refine ⟨by omega, by exact_mod_cast hle, ?_⟩
  rw [mul_comm]
  exact_mod_cast hlt

/-- The exponent of the prime 2 is at most 22 (R181). -/
theorem exponentTwo_le {index : Int} (hindex : IndexOk index) : exponentTwo index ≤ 22 := by
  obtain ⟨heq, -⟩ := termCount_bounds hindex
  obtain ⟨hmax, hle, -⟩ := log_two_bounds hindex
  obtain ⟨h0, -⟩ := hindex
  rw [exponentTwo]
  generalize Nat.log 2 (3 * termCount index).toNat = j at *
  interval_cases j <;> omega

/-- The exponent of the prime 2 is positive exactly below index 216 (R174). -/
theorem exponentTwo_nonpos_iff {index : Int} (hindex : IndexOk index) :
    exponentTwo index ≤ 0 ↔ 216 ≤ index := by
  obtain ⟨heq, -⟩ := termCount_bounds hindex
  obtain ⟨hmax, hle, hlt⟩ := log_two_bounds hindex
  obtain ⟨h0, -⟩ := hindex
  rw [exponentTwo]
  generalize Nat.log 2 (3 * termCount index).toNat = j at *
  interval_cases j <;> omega

/-! ### The tables of the setup -/

/-- On the table of 2 the scan for the largest entry up to a bound finds its logarithm (R174). -/
theorem largestIndexLe_two {t : Table} {len : Nat} (htable : IsTableOf 2 t len) {bound : Nat}
    (hbound : bound ≠ 0) {top : Nat} (htop : top < len) :
    largestIndexLe t bound top = min top (Nat.log 2 bound) := by
  obtain ⟨-, -, -, hentries, -⟩ := htable
  induction top with
  | zero => rw [largestIndexLe, Nat.zero_min]
  | succ top ih =>
    have hiff : entryAt t (top + 1 : Nat) ≤ bound ↔ top + 1 ≤ Nat.log 2 bound := by
      rw [(hentries (top + 1) htop).1, Nat.le_log_iff_pow_le (by decide) hbound]
      exact_mod_cast Iff.rfl
    rw [largestIndexLe, ih (by omega)]
    by_cases hle : top + 1 ≤ Nat.log 2 bound
    · rw [if_pos (hiff.mpr hle)]
      omega
    · rw [if_neg (mt hiff.mp hle)]
      omega

/-- The setup of the prime 2: skipped at an exponent that is not positive, else a power of two and a power of 5
(R173 to R175). -/
theorem primeSetup_two {index : Int} (hindex : IndexOk index) (t : Table) :
    primeSetup (pptBuild 2 t).1 (pptBuild 2 t).2 2 (termCount index) index =
      if exponentTwo index ≤ 0 then none
      else some { e := exponentTwo index, m := 2 ^ (exponentTwo index).toNat,
                  shift := 5 ^ index.toNat % 2 ^ (exponentTwo index).toNat, v := index } := by
  obtain ⟨b, hb, hlow, hhigh⟩ := exists_primeBound hindex
  obtain ⟨hlogmax, -⟩ := log_two_bounds hindex
  have hexp : ((largestIndexLe (pptBuild 2 t).1 (3 * termCount index) ((pptBuild 2 t).2 - 1) : Nat) : Int) +
      termCount index - index = exponentTwo index := by
    have hlen : (pptBuild 2 t).2 = 16 := by
      rw [pptBuild_snd (le_refl 2)]
      decide
    have hscan := largestIndexLe_two (isTableOf_pptBuild (le_refl 2) t) (bound := b) (by omega)
      (top := (pptBuild 2 t).2 - 1) (by omega)
    rw [hb, Int.toNat_natCast] at hlogmax
    rw [exponentTwo, hb, Int.toNat_natCast, hscan, hlen]
    omega
  simp only [primeSetup, if_true, hexp]
  by_cases hskip : exponentTwo index ≤ 0
  · rw [if_pos hskip, if_pos hskip]
  · have hmax := exponentTwo_le hindex
    obtain ⟨h0, hle⟩ := hindex
    rw [Config.indexMax] at hle
    have hdom : PowDomain 5 index (2 ^ (exponentTwo index).toNat) :=
      ⟨h0, one_le_pow₀ (by decide), .inr ⟨by decide, _, by omega, rfl⟩⟩
    rw [if_neg hskip, if_neg hskip, shiftOne_of_le (by omega) (by omega),
      powMod_eq hdom (by simp only [maxWord]; omega)]

/-- The setup of an odd prime: the largest power up to PP_CEIL and a power of 10 (R173, R175). -/
theorem primeSetup_odd {index : Int} (hindex : IndexOk index) {p : Nat} (hp : Nat.Prime p) (hodd : p ≠ 2)
    (t : Table) :
    primeSetup (pptBuild p t).1 (pptBuild p t).2 p (termCount index) index =
      some { e := Nat.log p 46340, m := (p : Int) ^ Nat.log p 46340,
             shift := 10 ^ index.toNat % (p : Int) ^ Nat.log p 46340, v := 0 } := by
  have htwo : (2 : Int) ≤ p := by exact_mod_cast hp.two_le
  have hlen := pptBuild_snd htwo t
  rw [Int.toNat_natCast] at hlen
  obtain ⟨-, -, -, hentries, -⟩ := isTableOf_pptBuild htwo t
  obtain ⟨hentry, hceil⟩ := hentries (Nat.log p 46340) (by omega)
  obtain ⟨h0, hle⟩ := hindex
  rw [Config.indexMax] at hle
  have hdom : PowDomain 10 index ((p : Int) ^ Nat.log p 46340) :=
    ⟨h0, one_le_pow₀ (by omega), .inl ⟨by decide, by decide, hceil⟩⟩
  have hindexTop : ((pptBuild p t).2 : Int) - 1 = Nat.log p 46340 := by omega
  have hodd' : ¬ (p : Int) = 2 := by exact_mod_cast hodd
  simp only [primeSetup, if_neg hodd', hindexTop, hentry, powMod_eq hdom
    (show index ≤ maxWord by simp only [maxWord]; omega)]

/-! ### A prime that takes part -/

/-- What the term loop is given for a prime that is not skipped: the modulus is a power of the prime that the
multiplier is exact for, and the table reaches beyond it (R173 to R175, R181). -/
structure SetupOk (index : Int) (p : Nat) (t : Table) (len : Nat) (u : PrimeSetup) : Prop where
  prime : Nat.Prime p
  table : IsTableOf p t len
  modulus : u.m = (p : Int) ^ u.e.toNat
  exponent_pos : 1 ≤ u.e
  two : p = 2 → u.e = exponentTwo index ∧ u.e ≤ 22 ∧ u.v = index
  odd : p ≠ 2 → u.e = Nat.log p 46340 ∧ u.e = (len : Int) - 1 ∧ u.m ≤ 46340 ∧ u.v = 0
  shift : u.shift = (if p = 2 then 5 else 10) ^ index.toNat % u.m

/-- Every prime up to 3·N that is not skipped is set up so (R173 to R175). -/
theorem setupOk_of_primeSetup {index : Int} (hindex : IndexOk index) {p : Nat} (hp : Nat.Prime p)
    (hple : (p : Int) ≤ 3 * termCount index) {t : Table} {u : PrimeSetup}
    (hsetup : primeSetup (pptBuild p t).1 (pptBuild p t).2 p (termCount index) index = some u) :
    SetupOk index p (pptBuild p t).1 (pptBuild p t).2 u := by
  have htwo : (2 : Int) ≤ p := by exact_mod_cast hp.two_le
  have htable := isTableOf_pptBuild htwo t
  by_cases hodd : p = 2
  · subst hodd
    rw [Nat.cast_ofNat, primeSetup_two hindex t] at hsetup
    by_cases hskip : exponentTwo index ≤ 0
    · rw [if_pos hskip] at hsetup
      cases hsetup
    · rw [if_neg hskip, Option.some.injEq] at hsetup
      subst hsetup
      exact ⟨hp, htable, rfl, not_le.mp hskip, fun _ => ⟨rfl, exponentTwo_le hindex, rfl⟩,
        fun hne => absurd rfl hne, rfl⟩
  · rw [primeSetup_odd hindex hp hodd t, Option.some.injEq] at hsetup
    subst hsetup
    obtain ⟨-, -, hhigh⟩ := termCount_bounds hindex
    have hlen := pptBuild_snd htwo t
    rw [Int.toNat_natCast] at hlen
    have hpos : 1 ≤ Nat.log p 46340 := Nat.log_pos hp.one_lt (by omega)
    obtain ⟨-, -, -, hentries, -⟩ := htable
    refine ⟨hp, isTableOf_pptBuild htwo t, ?_, Int.ofNat_le.mpr hpos, fun h => absurd h hodd,
      fun _ => ⟨rfl, by show (Nat.log p 46340 : Int) = _; omega,
        (hentries (Nat.log p 46340) (by omega)).2, rfl⟩, ?_⟩
    · rw [Int.toNat_natCast]
    · rw [if_neg hodd]

/-! ### The statements -/

/-- Settles O37: the two cases of the setup, the prime 2 and the odd primes. -/
theorem digit9SetsUpEachPrime : Obligations.Digit9SetsUpEachPrime := by
  intro index p t hindex hp hple
  refine ⟨?_, fun u hsetup => ?_⟩
  · by_cases hodd : p = 2
    · subst hodd
      rw [Nat.cast_ofNat, primeSetup_two hindex t]
      by_cases hskip : exponentTwo index ≤ 0
      · rw [if_pos hskip]
        exact ⟨fun _ => ⟨rfl, hskip⟩, fun _ => rfl⟩
      · rw [if_neg hskip]
        exact ⟨nofun, fun h => absurd h.2 hskip⟩
    · rw [primeSetup_odd hindex hp hodd t]
      exact ⟨nofun, fun h => absurd h.1 hodd⟩
  · obtain ⟨-, -, hmodulus, -, htwo, hodd, hshift⟩ := setupOk_of_primeSetup hindex hp hple hsetup
    by_cases h : p = 2
    · obtain ⟨hexp, -, hv⟩ := htwo h
      rw [if_pos h, if_pos h]
      exact ⟨hexp, hmodulus, hv, hshift⟩
    · obtain ⟨hexp, -, -, hv⟩ := hodd h
      rw [if_neg h, if_neg h]
      exact ⟨hexp, hmodulus, hv, hshift⟩

/-- A pass of an odd prime leaves the skip flag alone (R174). -/
theorem passPrime_skipped_of_odd {index : Int} (hindex : IndexOk index) {p : Nat} (hp : Nat.Prime p)
    (hodd : p ≠ 2) (d : DigitState) :
    (passPrime (termCount index) index d p).skipped = d.skipped := by
  obtain ⟨hskip, -⟩ | ⟨u, f, -, -, heq⟩ := primePass_cases (termCount index) index p d
  · rw [primeSetup_odd hindex hp hodd] at hskip
    cases hskip
  · rw [passPrime, heq]

/-- `digit9` reports the prime 2 skipped exactly where its exponent is not positive (R174). -/
theorem digit9_skipped_iff {index : Int} (hindex : IndexOk index) (t : Table) :
    (digit9 index t).skipped = true ↔ exponentTwo index ≤ 0 := by
  obtain ⟨b, hb, hlow, -⟩ := exists_primeBound hindex
  rw [digit9_eq_foldl hindex hb, primesFrom_two (by omega), List.foldl_cons]
  refine List.foldlRecOn (motive := fun d : DigitState => d.skipped = true ↔ exponentTwo index ≤ 0) _ _ ?_
    fun d hd q hq => ?_
  · obtain ⟨hskip, heq⟩ | ⟨u, f, hsetup, -, heq⟩ :=
      primePass_cases (termCount index) index 2 (digitStart t)
    · rw [primeSetup_two hindex] at hskip
      have hexp : exponentTwo index ≤ 0 := by
        by_contra hpos
        rw [if_neg hpos] at hskip
        cases hskip
      show (primePass (termCount index) index 2 (digitStart t)).skipped = true ↔ _
      rw [heq]
      exact iff_of_true rfl hexp
    · rw [primeSetup_two hindex] at hsetup
      have hexp : ¬ exponentTwo index ≤ 0 := by
        intro hneg
        rw [if_pos hneg] at hsetup
        cases hsetup
      show (primePass (termCount index) index 2 (digitStart t)).skipped = true ↔ _
      rw [heq]
      exact iff_of_false nofun hexp
  · obtain ⟨hprime, hthree, -⟩ := mem_primesFrom.mp hq
    rw [passPrime_skipped_of_odd hindex hprime (by omega)]
    exact hd

/-- Settles O32: SKIP2 is the skip flag, and the exponent of 2 is positive exactly below index 216. -/
theorem digit9SkipsTheFactorTwoFrom216 : Obligations.Digit9SkipsTheFactorTwoFrom216 := by
  intro s hindex
  refine ⟨_, exec_digit9_of_valid hindex, ?_⟩
  rw [complete_status, statusCompleted, statusSkip2_packStatus, statusDone_packStatus,
    digit9_skipped_iff hindex, exponentTwo_nonpos_iff hindex]
  exact ⟨Iff.rfl, rfl⟩

end Sys2Proof.Machine
end

section
/-! The series DIGIT9 sums (R176, R181): its product is one over `2^k` times a binomial coefficient, which bounds the
running exponent, and the four extractions of a term strip its factors of the prime entirely. -/

namespace Sys2Proof.Machine

/-! ### The product of the series -/

/-- The numerator of the product is a factorial. -/
theorem seriesNum_eq_factorial (k : Nat) : seriesNum k = (2 * k).factorial := by
  induction k with
  | zero => rfl
  | succ k ih =>
    rw [seriesNum_succ, ih, show 2 * (k + 1) - 1 = 2 * k + 1 by omega,
      show 2 * (k + 1) = 2 * k + 1 + 1 by omega, Nat.factorial_succ, Nat.factorial_succ]
    ring

/-- The denominator of the product is `2^k` times a quotient of factorials. -/
theorem seriesDen_mul_factorial (k : Nat) : seriesDen k * k.factorial = 2 ^ k * (3 * k).factorial := by
  induction k with
  | zero => rfl
  | succ k ih =>
    rw [seriesDen_succ, show 6 * (k + 1) - 4 = 2 * (3 * k + 1) by omega,
      show 9 * (k + 1) - 3 = 3 * (3 * k + 2) by omega,
      show 3 * (k + 1) = 3 * k + 2 + 1 by omega, Nat.factorial_succ, Nat.factorial_succ, Nat.factorial_succ,
      Nat.factorial_succ, pow_succ]
    linear_combination (2 * (3 * k + 1) * (3 * (3 * k + 2)) * (k + 1)) * ih

/-- The product of the series is one over `2^k` times a binomial coefficient. -/
theorem seriesDen_eq (k : Nat) : seriesDen k = 2 ^ k * Nat.choose (3 * k) k * seriesNum k := by
  have hchoose := Nat.add_choose_mul_factorial_mul_factorial (2 * k) k
  rw [show 2 * k + k = 3 * k by omega, ← seriesNum_eq_factorial] at hchoose
  have hden := seriesDen_mul_factorial k
  rw [← hchoose] at hden
  exact Nat.eq_of_mul_eq_mul_right k.factorial_pos (by rw [hden]; ring)

/-- The running exponent falls by the multiplicity of the prime in `2^k` and in the binomial coefficient. -/
theorem seriesExp_eq {p : Nat} (hp : Nat.Prime p) (v₀ : Int) (k : Nat) :
    seriesExp p v₀ k = v₀ - padicValNat p (2 ^ k) - padicValNat p (Nat.choose (3 * k) k) := by
  have := Fact.mk hp
  have hchoose : Nat.choose (3 * k) k ≠ 0 := (Nat.choose_pos (by omega)).ne'
  rw [seriesExp, seriesDen_eq, padicValNat.mul (mul_ne_zero (by positivity) hchoose) (seriesNum_pos k).ne',
    padicValNat.mul (by positivity) hchoose]
  push_cast
  ring

/-- Kummer's bound: a prime's multiplicity in the binomial coefficient is at most a logarithm. -/
theorem padicValNat_choose_le_log {p : Nat} (hp : Nat.Prime p) (n k : Nat) :
    padicValNat p (Nat.choose n k) ≤ Nat.log p n := by
  rw [← Nat.factorization_def _ hp]
  exact Nat.factorization_choose_le_log

/-- The exponent of the power of a term stays at least 0 (R181). -/
theorem exponent_add_seriesExp_nonneg {index : Int} {p : Nat} {t : Table} {len : Nat} {u : PrimeSetup}
    (hu : SetupOk index p t len u) (hindex : IndexOk index) {k : Nat} (hk : (k : Int) ≤ termCount index) :
    0 ≤ u.e + seriesExp p u.v k := by
  obtain ⟨-, -, hhigh⟩ := termCount_bounds hindex
  have hlog := padicValNat_choose_le_log hu.prime (3 * k) k
  rw [seriesExp_eq hu.prime]
  by_cases h : p = 2
  · obtain ⟨hexp, -, hv⟩ := hu.two h
    subst h
    have hmono : Nat.log 2 (3 * k) ≤ Nat.log 2 (3 * termCount index).toNat :=
      Nat.log_mono_right (by omega)
    rw [hexp, hv, exponentTwo, padicValNat.prime_pow]
    omega
  · obtain ⟨hexp, -, -, hv⟩ := hu.odd h
    have := Fact.mk hu.prime
    have hmono : Nat.log p (3 * k) ≤ Nat.log p 46340 := Nat.log_mono_right (by omega)
    have htwo : padicValNat p (2 ^ k) = 0 :=
      padicValNat.eq_zero_of_not_dvd fun hdvd =>
        h ((Nat.prime_dvd_prime_iff_eq hu.prime Nat.prime_two).mp (hu.prime.dvd_of_dvd_pow hdvd))
    rw [hexp, hv, htwo]
    omega

/-! ### The factors of a term -/

section

variable {p : Nat} (hp : Nat.Prime p) {t : Table} {len : Nat} (htable : IsTableOf p t len)
include htable

/-- The power above the table divides no positive number up to PP_CEIL. -/
theorem not_pow_len_dvd {n : Nat} (hpos : 1 ≤ n) (hn : n ≤ 46340) : ¬ p ^ len ∣ n := by
  obtain ⟨-, -, -, -, hceil⟩ := htable
  rw [Config.ppCeil] at hceil
  have hceil' : 46340 < p ^ len := by exact_mod_cast hceil
  intro hdvd
  have := Nat.le_of_dvd (by omega) hdvd
  omega

include hp

/-- Nor does it divide the factor `6k - 4` of an accepted index: of its half it is too large a divisor, and of
the prime 2 it is 2^16. -/
theorem not_pow_len_dvd_six {k : Nat} (hpos : 1 ≤ k) (hk : 3 * k ≤ 46340) : ¬ p ^ len ∣ 6 * k - 4 := by
  intro hdvd
  rw [show 6 * k - 4 = 2 * (3 * k - 2) by omega] at hdvd
  by_cases h : p = 2
  · subst h
    have hlen : 16 ≤ len := by
      by_contra hlt
      refine not_pow_len_dvd htable (n := 2 ^ 15) (by decide) (by decide) ?_
      exact pow_dvd_pow 2 (by omega)
    have := (pow_dvd_pow 2 hlen).trans hdvd
    omega
  · have hcoprime : Nat.Coprime (p ^ len) 2 :=
      Nat.Coprime.pow_left len ((Nat.coprime_primes hp Nat.prime_two).mpr h)
    exact not_pow_len_dvd htable (by omega) (by omega) (hcoprime.dvd_of_dvd_mul_left hdvd)

/-- Nor does it divide the factor `9k - 3`, in which 3 has multiplicity 1. -/
theorem not_pow_len_dvd_nine {k : Nat} (hpos : 1 ≤ k) (hk : 3 * k ≤ 46340) : ¬ p ^ len ∣ 9 * k - 3 := by
  intro hdvd
  rw [show 9 * k - 3 = 3 * (3 * k - 1) by omega] at hdvd
  by_cases h : p = 3
  · subst h
    have hlen : 2 ≤ len := by
      by_contra hlt
      refine not_pow_len_dvd htable (n := 3) (by decide) (by decide) ?_
      simpa using pow_dvd_pow 3 (show len ≤ 1 by omega)
    have := (pow_dvd_pow 3 hlen).trans hdvd
    omega
  · have hcoprime : Nat.Coprime (p ^ len) 3 :=
      Nat.Coprime.pow_left len ((Nat.coprime_primes hp Nat.prime_three).mpr h)
    exact not_pow_len_dvd htable (by omega) (by omega) (hcoprime.dvd_of_dvd_mul_left hdvd)

end

/-! ### Products of residues -/

section

variable {index : Int} {p : Nat} {t : Table} {len : Nat} {u : PrimeSetup} (hu : SetupOk index p t len u)
include hu

/-- The modulus of a prime that takes part is at least 2 and below 2^30 (R173, R174). -/
theorem modulus_bounds : 2 ≤ u.m ∧ u.m < 2 ^ 30 := by
  have hp : (2 : Int) ≤ p := by exact_mod_cast hu.prime.two_le
  have hpos := hu.exponent_pos
  refine ⟨?_, ?_⟩
  · rw [hu.modulus]
    calc (2 : Int) ≤ p := hp
      _ = (p : Int) ^ 1 := (pow_one _).symm
      _ ≤ (p : Int) ^ u.e.toNat := pow_le_pow_right₀ (by omega) (by omega)
  · by_cases h : p = 2
    · obtain ⟨-, hmax, -⟩ := hu.two h
      rw [hu.modulus, h]
      exact pow_lt_pow_right₀ (by decide) (by omega)
    · obtain ⟨-, -, hmax, -⟩ := hu.odd h
      omega

/-- On residues the multiplier is exact for the modulus of every prime that takes part (R94). -/
theorem mulmod_residues {x y : Int} (hx : x ∈ Set.Ico 0 u.m) (hy : y ∈ Set.Ico 0 u.m) :
    mulmod x y u.m = x * y % u.m := by
  obtain ⟨hm, -⟩ := modulus_bounds hu
  by_cases h : p = 2
  · obtain ⟨-, hmax, -⟩ := hu.two h
    have hpow : u.m = 2 ^ u.e.toNat := by rw [hu.modulus, h]; rfl
    rw [hpow]
    exact mulmod_two_pow x y (by omega)
  · obtain ⟨-, -, hmax, -⟩ := hu.odd h
    exact mulmod_of_isWord (by omega)
      (isWord_mul_of_abs_le (abs_le_modSafe_of_mem hmax hx) (abs_le_modSafe_of_mem hmax hy))

/-- A residue is in range. -/
theorem emod_mem (x : Int) : x % u.m ∈ Set.Ico 0 u.m := by
  obtain ⟨hm, -⟩ := modulus_bounds hu
  exact ⟨Int.emod_nonneg x (by omega), Int.emod_lt_of_pos x (by omega)⟩

/-- Two multiplications of a residue by residues. -/
theorem mulmod_mulmod (x y z : Int) :
    mulmod (mulmod (x % u.m) (y % u.m) u.m) (z % u.m) u.m = x * y * z % u.m := by
  rw [mulmod_residues hu (emod_mem hu x) (emod_mem hu y), ← Int.mul_emod,
    mulmod_residues hu (emod_mem hu (x * y)) (emod_mem hu z), ← Int.mul_emod]

end

/-! ### The running values of the term loop -/

/-- The running values after `k` terms are those of the product of R176. -/
def SeriesState (p : Nat) (u : PrimeSetup) (k : Nat) (w : TermState) : Prop :=
  w.num = primeFree p (seriesNum k) % u.m ∧ w.den = primeFree p (seriesDen k) % u.m ∧
    w.v = seriesExp p u.v k

/-- The part prime to a prime of a number times two factors. -/
theorem primeFree_mul_mul {p : Nat} (hp : Nat.Prime p) {a b c : Nat} (ha : a ≠ 0) (hb : b ≠ 0) (hc : c ≠ 0) :
    primeFree p (a * (b * c)) = primeFree p a * primeFree p b * primeFree p c := by
  rw [primeFree_mul hp ha (mul_ne_zero hb hc), primeFree_mul hp hb hc, mul_assoc]

/-- The running exponent over one more term: the multiplicities of its four factors. -/
theorem seriesExp_succ {p : Nat} (hp : Nat.Prime p) (v₀ : Int) (k : Nat) :
    seriesExp p v₀ (k + 1) = seriesExp p v₀ k + padicValNat p (2 * (k + 1)) +
      padicValNat p (2 * (k + 1) - 1) - padicValNat p (6 * (k + 1) - 4) - padicValNat p (9 * (k + 1) - 3) := by
  have := Fact.mk hp
  have hvalue {a b c : Nat} (ha : a ≠ 0) (hb : b ≠ 0) (hc : c ≠ 0) :
      padicValNat p (a * (b * c)) = padicValNat p a + (padicValNat p b + padicValNat p c) := by
    rw [padicValNat.mul ha (mul_ne_zero hb hc), padicValNat.mul hb hc]
  rw [seriesExp, seriesExp, seriesNum_succ, seriesDen_succ,
    hvalue (seriesNum_pos k).ne' (by omega) (by omega), hvalue (seriesDen_pos k).ne' (by omega) (by omega)]
  push_cast
  ring

section

variable {index : Int} {p : Nat} {t : Table} {len : Nat} {u : PrimeSetup} (hu : SetupOk index p t len u)
include hu

/-- The four extractions of a term: each factor without the prime, and its multiplicity (R176). -/
theorem pptExtract_factors {k : Nat} (hpos : 1 ≤ k) (hk : 3 * k ≤ 46340) :
    pptExtract t len (2 * (k : Int)) = ((primeFree p (2 * k) : Int), padicValNat p (2 * k)) ∧
    pptExtract t len (2 * (k : Int) - 1) = ((primeFree p (2 * k - 1) : Int), padicValNat p (2 * k - 1)) ∧
    pptExtract t len (6 * (k : Int) - 4) = ((primeFree p (6 * k - 4) : Int), padicValNat p (6 * k - 4)) ∧
    pptExtract t len (9 * (k : Int) - 3) = ((primeFree p (9 * k - 3) : Int), padicValNat p (9 * k - 3)) := by
  have hextract {n : Nat} {z : Int} (hz : z = n) (h1 : 1 ≤ n) (hmax : n ≤ 200000) (hdvd : ¬ p ^ len ∣ n) :
      pptExtract t len z = ((primeFree p n : Int), padicValNat p n) := by
    rw [hz]
    exact pptExtract_eq_primeFree hu.prime hu.table h1
      (isWord_of_nonneg (by omega) (by simp only [maxWord]; omega)) hdvd
  exact ⟨hextract (by omega) (by omega) (by omega) (not_pow_len_dvd hu.table (by omega) (by omega)),
    hextract (by omega) (by omega) (by omega) (not_pow_len_dvd hu.table (by omega) (by omega)),
    hextract (by omega) (by omega) (by omega) (not_pow_len_dvd_six hu.prime hu.table hpos hk),
    hextract (by omega) (by omega) (by omega) (not_pow_len_dvd_nine hu.prime hu.table hpos hk)⟩

/-- The factors of the next term bring the running values to those of the product with that term (R176). -/
theorem seriesState_termFactors {k : Nat} (hk : 3 * (k + 1) ≤ 46340) {w : TermState}
    (hw : SeriesState p u k w) :
    SeriesState p u (k + 1) (termFactors t len u.m (k + 1 : Nat) w) := by
  obtain ⟨hnum, hden, hv⟩ := hw
  obtain ⟨hm, -⟩ := modulus_bounds hu
  obtain ⟨h1, h2, h3, h4⟩ := pptExtract_factors hu (k := k + 1) (by omega) hk
  have hrem (n : Nat) : remT (n : Int) u.m = n % u.m := remT_of_nonneg (by omega) (by omega)
  unfold SeriesState
  simp only [termFactors, h1, h2, h3, h4, hrem, hnum, hden, hv, mulmod_mulmod hu]
  refine ⟨?_, ?_, (seriesExp_succ hu.prime u.v k).symm⟩
  · rw [seriesNum_succ, primeFree_mul_mul hu.prime (seriesNum_pos k).ne' (by omega) (by omega)]
    push_cast
    rfl
  · rw [seriesDen_succ, primeFree_mul_mul hu.prime (seriesDen_pos k).ne' (by omega) (by omega)]
    push_cast
    rfl

/-- A term step leaves the factors as `termFactors` gives them. -/
theorem seriesState_termStep {k : Nat} (hk : 3 * (k + 1) ≤ 46340) {w : TermState}
    (hw : SeriesState p u k w) :
    SeriesState p u (k + 1) (termStep t len p u.e u.m (k + 1 : Nat) w) := by
  have hfactors := seriesState_termFactors hu hk hw
  obtain ⟨-, heq⟩ | ⟨-, heq⟩ := termStep_cases t len p u.e u.m (k + 1 : Nat) w
  · rw [heq]
    exact hfactors
  · rw [heq]
    exact hfactors

/-- A term step keeps the subtotal a residue (R176). -/
theorem termStep_sum_mem {k : Int} {w : TermState} (hw : w.sum ∈ Set.Ico 0 u.m) :
    (termStep t len p u.e u.m k w).sum ∈ Set.Ico 0 u.m := by
  obtain ⟨hm, -⟩ := modulus_bounds hu
  obtain ⟨-, heq⟩ | ⟨-, heq⟩ := termStep_cases t len p u.e u.m k w
  · rw [heq]
    exact hw
  · rw [heq]
    show remT _ u.m ∈ _
    have hterm : 0 ≤ termValue t p u.e u.m k (termFactors t len u.m k w) := mulmod_nonneg (by omega)
    have hsum : (termFactors t len u.m k w).sum = w.sum := rfl
    rw [hsum, remT_of_nonneg (add_nonneg hw.1 hterm) (by omega)]
    exact emod_mem hu _

/-- The running values after `k` terms, for every `k` up to N (R176). -/
theorem seriesState_termLoop {k : Nat} (hk : 3 * k ≤ 46340) :
    SeriesState p u k (termLoop t len p u.e u.m k 1 (startTerms u.v)) ∧
      (termLoop t len p u.e u.m k 1 (startTerms u.v)).sum ∈ Set.Ico 0 u.m := by
  obtain ⟨hm, -⟩ := modulus_bounds hu
  induction k with
  | zero =>
    have hone : (1 : Int) = ((1 : Nat) : Int) % u.m := by
      rw [Nat.cast_one, Int.emod_eq_of_lt (by decide) (by omega)]
    refine ⟨⟨?_, ?_, (seriesExp_zero p u.v).symm⟩, le_refl 0, by show 0 < u.m; omega⟩
    · rw [seriesNum_zero, primeFree_one, ← hone]
      rfl
    · rw [seriesDen_zero, primeFree_one, ← hone]
      rfl
  | succ k ih =>
    obtain ⟨hstate, hsum⟩ := ih (by omega)
    rw [termLoop_succ, show (1 : Int) + k = (k + 1 : Nat) by push_cast; ring]
    exact ⟨seriesState_termStep hu hk hstate, termStep_sum_mem hu hsum⟩

end

end Sys2Proof.Machine
end

section
/-! The terms DIGIT9 adds (R176, R181): every inversion is exact, by Lamé's theorem, by the search up to 2^19 and by
evaluation of the denominators above, so each term is the series term and the subtotal their sum modulo M. -/

namespace Sys2Proof.Machine

/-! ### The denominators of the first indices -/

/-- Euclid's algorithm run with a bound on its divisions. -/
def euclidEnds : Nat → Nat → Nat → Bool
  | 0, a, _ => a == 0
  | n + 1, a, b => a == 0 || euclidEnds n (b % a) a

theorem endsWithin_of_euclidEnds {n a b : Nat} (h : euclidEnds n a b = true) : EndsWithin n a b := by
  induction n generalizing a b with
  | zero => exact beq_iff_eq.mp h
  | succ n ih =>
    rw [euclidEnds, Bool.or_eq_true, beq_iff_eq] at h
    exact h.imp_right ih

/-- The odd part of a number below 2^20. -/
def oddPart (n : Nat) : Nat := n / Nat.gcd n (2 ^ 20)

theorem oddPart_eq_primeFree {n : Nat} (hpos : 1 ≤ n) (hlt : n < 2 ^ 20) : oddPart n = primeFree 2 n := by
  have hle : padicValNat 2 n ≤ 20 := by
    have hpow := Nat.le_of_dvd hpos (pow_padicValNat_dvd (p := 2) (n := n))
    exact ((Nat.pow_lt_pow_iff_right (by decide)).mp (hpow.trans_lt hlt)).le
  have hgcd : Nat.gcd n (2 ^ 20) = 2 ^ padicValNat 2 n := by
    obtain ⟨j, -, hj⟩ := (Nat.dvd_prime_pow Nat.prime_two).mp (Nat.gcd_dvd_right n (2 ^ 20))
    refine Nat.dvd_antisymm ?_ (Nat.dvd_gcd pow_padicValNat_dvd (pow_dvd_pow 2 hle))
    rw [hj]
    exact pow_dvd_pow 2 ((padicValNat_dvd_iff_le (by omega)).mp (hj ▸ Nat.gcd_dvd_left n (2 ^ 20)))
  rw [oddPart, hgcd, primeFree]

/-- The odd part of the product's denominator after `k` terms, modulo `m`, factor by factor. -/
def oddDen (m : Nat) : Nat → Nat
  | 0 => 1 % m
  | k + 1 => oddDen m k * (oddPart (6 * (k + 1) - 4) * oddPart (9 * (k + 1) - 3)) % m

theorem oddDen_eq (m : Nat) {k : Nat} (hk : k ≤ 100) :
    oddDen m k = primeFree 2 (seriesDen k) % m := by
  induction k with
  | zero => rw [oddDen, seriesDen_zero, primeFree_one]
  | succ k ih =>
    rw [oddDen, ih (by omega), seriesDen_succ,
      primeFree_mul_mul Nat.prime_two (seriesDen_pos k).ne' (by omega) (by omega),
      oddPart_eq_primeFree (by omega) (by omega), oddPart_eq_primeFree (by omega) (by omega),
      Nat.mod_mul_mod, mul_assoc]

/-- Modulo 2^20, 2^21 and 2^22 the divisions suffice for every denominator of the first 46 terms, as R181 found by
evaluation. -/
theorem euclidEnds_oddDen :
    ∀ e ∈ [20, 21, 22], ∀ k < 47, euclidEnds 22 (oddDen (2 ^ e) k) (2 ^ e) = true := by decide +kernel

/-- An exponent of 20 or more leaves at most 46 terms (R181). -/
theorem termCount_le_of_exponentTwo {index : Int} (hindex : IndexOk index) (hexp : 20 ≤ exponentTwo index) :
    termCount index ≤ 46 := by
  obtain ⟨heq, -⟩ := termCount_bounds hindex
  obtain ⟨hmax, hle, -⟩ := log_two_bounds hindex
  obtain ⟨h0, -⟩ := hindex
  rw [exponentTwo] at hexp
  generalize Nat.log 2 (3 * termCount index).toNat = j at *
  interval_cases j <;> omega

/-! ### The inversions -/

/-- The part prime to a prime is coprime to its powers. -/
theorem coprime_primeFree {p : Nat} (hp : Nat.Prime p) {n : Nat} (hn : n ≠ 0) (j : Nat) :
    Nat.Coprime (primeFree p n) (p ^ j) := by
  rw [primeFree, ← Nat.factorization_def n hp]
  exact ((Nat.coprime_ordCompl hp hn).pow_left j).symm

section

variable {index : Int} {p : Nat} {t : Table} {len : Nat} {u : PrimeSetup} (hu : SetupOk index p t len u)
  (hindex : IndexOk index) {k : Nat} (hk : (k : Int) ≤ termCount index)
include hu

/-- The modulus as a natural number. -/
theorem natCast_modulus : ((p ^ u.e.toNat : Nat) : Int) = u.m := by
  rw [hu.modulus, Nat.cast_pow]

/-- Every denominator is coprime to its modulus (R181). -/
theorem gcd_den : Int.gcd ((primeFree p (seriesDen k) : Int) % u.m) u.m = 1 := by
  rw [← natCast_modulus hu, Int.gcd_emod, Int.gcd_natCast_natCast]
  exact coprime_primeFree hu.prime (seriesDen_pos k).ne' _

include hindex hk

/-- On every denominator of DIGIT9 the 22 divisions suffice (R181). -/
theorem endsWithin_den :
    EndsWithin 22 (primeFree p (seriesDen k) % p ^ u.e.toNat) (p ^ u.e.toNat) := by
  have hlt : primeFree p (seriesDen k) % p ^ u.e.toNat < p ^ u.e.toNat :=
    Nat.mod_lt _ (pow_pos hu.prime.pos _)
  by_cases h : p = 2
  · obtain ⟨hexp, hmax, -⟩ := hu.two h
    subst h
    by_cases hsmall : u.e.toNat ≤ 19
    · exact endsWithin_two_pow hsmall hlt
    · have hterms := termCount_le_of_exponentTwo hindex (by omega)
      rw [← oddDen_eq _ (by omega)]
      refine endsWithin_of_euclidEnds (euclidEnds_oddDen _ ?_ k (by omega))
      simp only [List.mem_cons, List.not_mem_nil, or_false]
      omega
  · obtain ⟨-, -, hmax, -⟩ := hu.odd h
    have hcast := natCast_modulus hu
    exact endsWithin_of_le hlt (by omega)

/-- Every inversion of DIGIT9 is exact (R181). -/
theorem invMod_den :
    invMod ((primeFree p (seriesDen k) : Int) % u.m) u.m ∈ Set.Ico 0 u.m ∧
      (primeFree p (seriesDen k) : Int) % u.m * invMod ((primeFree p (seriesDen k) : Int) % u.m) u.m ≡
        1 [ZMOD u.m] := by
  obtain ⟨hm, hmax⟩ := modulus_bounds hu
  have hcoprime := gcd_den hu (k := k)
  have hends := endsWithin_den hu hindex hk
  rw [← natCast_modulus hu, ← Int.natCast_mod] at hcoprime ⊢
  rw [← natCast_modulus hu] at hm hmax
  exact invMod_of_endsWithin (by omega) (Nat.mod_lt _ (pow_pos hu.prime.pos _)) hcoprime hends

end

/-! ### The terms -/

/-- A factor may be reduced before a product is. -/
theorem emod_mul_emod (x y m : Int) : x % m * y % m = x * y % m :=
  (Int.mod_modEq x m).mul_right y

section

variable {index : Int} {p : Nat} {t : Table} {len : Nat} {u : PrimeSetup} (hu : SetupOk index p t len u)
include hu

/-- The power of a term, where its exponent is in range (R176, R181). -/
theorem primePower_eq {v : Int} (hlow : 0 ≤ u.e + v) (hneg : v < 0) :
    primePower t p u.e v = (p : Int) ^ (u.e + v).toNat ∧
      (p : Int) ^ (u.e + v).toNat ∈ Set.Ico 0 u.m := by
  have hp : (1 : Int) < p := by exact_mod_cast hu.prime.one_lt
  refine ⟨?_, (pow_pos (by omega) _).le, ?_⟩
  · by_cases h : p = 2
    · obtain ⟨-, hmax, -⟩ := hu.two h
      subst h
      rw [primePower, if_pos Nat.cast_ofNat, shiftOne_of_le hlow (by omega)]
      rfl
    · obtain ⟨-, hlen, -⟩ := hu.odd h
      obtain ⟨-, -, -, hentries, -⟩ := hu.table
      have hentry := (hentries (u.e + v).toNat (by omega)).1
      rw [Int.toNat_of_nonneg hlow] at hentry
      rw [primePower, if_neg (by exact_mod_cast h), hentry]
  · rw [hu.modulus]
    exact pow_lt_pow_right₀ hp (by omega)

/-- The term of R176 is a residue, and the product of its four factors modulo M. -/
theorem termValue_spec (hindex : IndexOk index) {k : Nat} (hpos : 1 ≤ k) (hk : (k : Int) ≤ termCount index)
    {w : TermState} (hw : SeriesState p u k w) (hneg : w.v < 0) :
    termValue t p u.e u.m k w ∈ Set.Ico 0 u.m ∧
      termValue t p u.e u.m k w * w.den ≡
        w.num * (p : Int) ^ (u.e + w.v).toNat * (50 * (k : Int) - 6) [ZMOD u.m] := by
  obtain ⟨hnum, hden, hv⟩ := hw
  obtain ⟨hm, -⟩ := modulus_bounds hu
  have hlow := exponent_add_seriesExp_nonneg hu hindex hk
  rw [← hv] at hlow
  obtain ⟨hpower, hpowerMem⟩ := primePower_eq hu hlow hneg
  obtain ⟨hinvMem, hinverse⟩ := invMod_den hu hindex hk
  rw [← hden] at hinvMem hinverse
  have hnumMem : w.num ∈ Set.Ico 0 u.m := hnum ▸ emod_mem hu _
  have hrem : remT (50 * (k : Int) - 6) u.m = (50 * (k : Int) - 6) % u.m :=
    remT_of_nonneg (by omega) (by omega)
  have hproduct : termValue t p u.e u.m k w =
      invMod w.den u.m * w.num * (p : Int) ^ (u.e + w.v).toNat * (50 * (k : Int) - 6) % u.m := by
    rw [termValue, hpower, hrem, mulmod_residues hu hinvMem hnumMem,
      mulmod_residues hu (emod_mem hu _) hpowerMem, mulmod_residues hu (emod_mem hu _) (emod_mem hu _),
      emod_mul_emod (invMod w.den u.m * w.num), ← Int.mul_emod]
  refine ⟨hproduct ▸ emod_mem hu _, ?_⟩
  calc termValue t p u.e u.m k w * w.den
      ≡ invMod w.den u.m * w.num * (p : Int) ^ (u.e + w.v).toNat * (50 * (k : Int) - 6) * w.den [ZMOD u.m] :=
        (hproduct ▸ Int.mod_modEq _ _).mul_right _
    _ = w.den * invMod w.den u.m * (w.num * (p : Int) ^ (u.e + w.v).toNat * (50 * (k : Int) - 6)) := by ring
    _ ≡ 1 * (w.num * (p : Int) ^ (u.e + w.v).toNat * (50 * (k : Int) - 6)) [ZMOD u.m] := hinverse.mul_right _
    _ = w.num * (p : Int) ^ (u.e + w.v).toNat * (50 * (k : Int) - 6) := one_mul _

/-- What one more term does to the subtotal: nothing while the running exponent is at least 0, else it adds a
residue `T` with `T·DEN = NUM·P^(E+V)·(50(K+1)-6)` modulo M (R176). -/
theorem termLoop_succ_sum (hindex : IndexOk index) {k : Nat} (hk : (k : Int) < termCount index) :
    (0 ≤ (termLoop t len p u.e u.m (k + 1) 1 (startTerms u.v)).v ∧
      (termLoop t len p u.e u.m (k + 1) 1 (startTerms u.v)).sum =
        (termLoop t len p u.e u.m k 1 (startTerms u.v)).sum) ∨
    ((termLoop t len p u.e u.m (k + 1) 1 (startTerms u.v)).v < 0 ∧
      ∃ T ∈ Set.Ico 0 u.m,
        (termLoop t len p u.e u.m (k + 1) 1 (startTerms u.v)).sum =
          ((termLoop t len p u.e u.m k 1 (startTerms u.v)).sum + T) % u.m ∧
        T * (termLoop t len p u.e u.m (k + 1) 1 (startTerms u.v)).den ≡
          (termLoop t len p u.e u.m (k + 1) 1 (startTerms u.v)).num *
            (p : Int) ^ (u.e + (termLoop t len p u.e u.m (k + 1) 1 (startTerms u.v)).v).toNat *
              (50 * ((k : Int) + 1) - 6) [ZMOD u.m]) := by
  obtain ⟨-, -, hhigh⟩ := termCount_bounds hindex
  obtain ⟨hm, -⟩ := modulus_bounds hu
  obtain ⟨hstate, hsum⟩ := seriesState_termLoop hu (k := k) (by omega)
  rw [termLoop_succ, show (1 : Int) + k = (k + 1 : Nat) by push_cast; ring]
  generalize termLoop t len p u.e u.m k 1 (startTerms u.v) = w at *
  have hfactors := seriesState_termFactors hu (k := k) (by omega) hstate
  obtain ⟨hv, heq⟩ | ⟨hneg, heq⟩ := termStep_cases t len p u.e u.m (k + 1 : Nat) w
  · rw [heq]
    exact .inl ⟨hv, rfl⟩
  · obtain ⟨hterm, hcongr⟩ := termValue_spec hu hindex (by omega) (by push_cast; omega) hfactors hneg
    have hsame : (termFactors t len u.m (k + 1 : Nat) w).sum = w.sum := rfl
    rw [heq]
    refine .inr ⟨hneg, _, hterm, ?_, ?_⟩
    · show remT _ u.m = _
      rw [hsame, remT_of_nonneg (add_nonneg hsum.1 hterm.1) (by omega)]
    · rw [Nat.cast_add, Nat.cast_one] at hcongr ⊢
      exact hcongr

end

/-! ### The subtotal -/

/-- The residue that term `k` of the series adds for a prime (R176). -/
def seriesTerm (p : Nat) (u : PrimeSetup) (k : Nat) : ZMod u.m.toNat :=
  (primeFree p (seriesNum k) : ZMod u.m.toNat) * (primeFree p (seriesDen k) : ZMod u.m.toNat)⁻¹ *
    (p : ZMod u.m.toNat) ^ (u.e + seriesExp p u.v k).toNat * ((50 * (k : Int) - 6 : Int) : ZMod u.m.toNat)

section

variable {index : Int} {p : Nat} {t : Table} {len : Nat} {u : PrimeSetup} (hu : SetupOk index p t len u)
include hu

/-- A congruence modulo M, read in the residue ring. -/
theorem intCast_eq_of_modEq {a b : Int} (h : a ≡ b [ZMOD u.m]) :
    (a : ZMod u.m.toNat) = (b : ZMod u.m.toNat) := by
  obtain ⟨hm, -⟩ := modulus_bounds hu
  refine (ZMod.intCast_eq_intCast_iff a b _).mpr ?_
  rwa [Int.toNat_of_nonneg (by omega)]

/-- A residue `T` with `T·DEN = NUM·P^(E+V)·(50K-6)` is the series term (R176). -/
theorem intCast_eq_seriesTerm {k : Nat} {w : TermState} (hw : SeriesState p u k w) {T : Int}
    (hT : T * w.den ≡ w.num * (p : Int) ^ (u.e + w.v).toNat * (50 * (k : Int) - 6) [ZMOD u.m]) :
    (T : ZMod u.m.toNat) = seriesTerm p u k := by
  obtain ⟨hnum, hden, hv⟩ := hw
  have hnum' : (w.num : ZMod u.m.toNat) = (primeFree p (seriesNum k) : ZMod u.m.toNat) := by
    rw [intCast_eq_of_modEq hu (hnum ▸ Int.mod_modEq _ _), Int.cast_natCast]
  have hden' : (w.den : ZMod u.m.toNat) = (primeFree p (seriesDen k) : ZMod u.m.toNat) := by
    rw [intCast_eq_of_modEq hu (hden ▸ Int.mod_modEq _ _), Int.cast_natCast]
  have hcoprime : Nat.Coprime (primeFree p (seriesDen k)) u.m.toNat := by
    rw [← natCast_modulus hu, Int.toNat_natCast]
    exact coprime_primeFree hu.prime (seriesDen_pos k).ne' _
  have hunit := ZMod.coe_mul_inv_eq_one _ hcoprime
  have hcast := intCast_eq_of_modEq hu hT
  push_cast at hcast
  rw [hnum', hden', hv] at hcast
  rw [seriesTerm]
  push_cast
  linear_combination (primeFree p (seriesDen k) : ZMod u.m.toNat)⁻¹ * hcast - (T : ZMod u.m.toNat) * hunit

/-- The subtotal after `k` terms is the sum of the series terms with a negative running exponent (R176). -/
theorem intCast_sum_eq (hindex : IndexOk index) {k : Nat} (hk : (k : Int) ≤ termCount index) :
    ((termLoop t len p u.e u.m k 1 (startTerms u.v)).sum : ZMod u.m.toNat) =
      ∑ j ∈ (Finset.Icc 1 k).filter (fun j => seriesExp p u.v j < 0), seriesTerm p u j := by
  obtain ⟨-, -, hhigh⟩ := termCount_bounds hindex
  induction k with
  | zero =>
    show ((0 : Int) : ZMod u.m.toNat) = _
    rw [Int.cast_zero]
    rfl
  | succ k ih =>
    push_cast at hk
    have hprev := ih (by omega)
    obtain ⟨hstate, -⟩ := seriesState_termLoop hu (k := k + 1) (by omega)
    obtain ⟨-, -, hv⟩ := id hstate
    rw [Finset.sum_filter] at hprev ⊢
    rw [Finset.sum_Icc_succ_top (by omega), ← hprev, ← hv]
    obtain ⟨hnonneg, hsum⟩ | ⟨hneg, T, -, hsum, hT⟩ := termLoop_succ_sum hu hindex (k := k) (by omega)
    · rw [if_neg (by omega), hsum, add_zero]
    · rw [if_pos hneg, intCast_eq_of_modEq hu (hsum ▸ Int.mod_modEq _ _), Int.cast_add,
        intCast_eq_seriesTerm hu hstate (T := T) (by push_cast; exact hT)]

end

/-! ### The statements -/

/-- Settles O35: the setup's exponent and modulus, the running values as those of the product, and Kummer's
bound. -/
theorem digit9ExponentsStayInRange : Obligations.Digit9ExponentsStayInRange := by
  intro index p t u k hindex hp hple hsetup hk
  have hu := setupOk_of_primeSetup hindex hp hple hsetup
  obtain ⟨-, -, hhigh⟩ := termCount_bounds hindex
  obtain ⟨⟨-, hden, hv⟩, -⟩ := seriesState_termLoop hu (k := k) (by omega)
  rw [hden, hv]
  exact ⟨hu.modulus, hu.exponent_pos, fun h => (hu.two h).2.1, fun h => (hu.odd h).2.1, gcd_den hu,
    fun _ => exponent_add_seriesExp_nonneg hu hindex hk⟩

/-- Settles O36: `invMod_den` on the running denominator. -/
theorem digit9InversionsAreExact : Obligations.Digit9InversionsAreExact := by
  intro index p t u k hindex hp hple hsetup hk _
  have hu := setupOk_of_primeSetup hindex hp hple hsetup
  obtain ⟨-, -, hhigh⟩ := termCount_bounds hindex
  obtain ⟨hm, -⟩ := modulus_bounds hu
  obtain ⟨⟨-, hden, -⟩, -⟩ := seriesState_termLoop hu (k := k) (by omega)
  obtain ⟨-, hinverse⟩ := invMod_den hu hindex hk
  have hone : 1 % u.m = 1 := Int.emod_eq_of_lt (by decide) (by omega)
  rw [hden]
  exact Eq.trans hinverse hone

/-- Settles O38: the running values as those of the product, and the term added by `termLoop_succ_sum`. -/
theorem digit9TermsAreTheSeriesTerms : Obligations.Digit9TermsAreTheSeriesTerms := by
  rintro index p t u k w w' hindex hp hple hsetup hk rfl rfl
  have hu := setupOk_of_primeSetup hindex hp hple hsetup
  obtain ⟨-, -, hhigh⟩ := termCount_bounds hindex
  obtain ⟨⟨hnum, hden, hv⟩, hsum0, hsum⟩ := seriesState_termLoop hu (k := k) (by omega)
  refine ⟨hnum, hden, hv, hsum0, hsum, fun hlt => ?_⟩
  obtain ⟨hnonneg, hsame⟩ | ⟨hneg, T, ⟨hT0, hT⟩, hadd, hcongr⟩ := termLoop_succ_sum hu hindex hlt
  · exact ⟨fun _ => hsame, fun hneg => absurd hneg (not_lt.mpr hnonneg)⟩
  · exact ⟨fun hnonneg => absurd hneg (not_lt.mpr hnonneg), fun _ => ⟨T, hT0, hT, hadd, hcongr⟩⟩

/-- Settles O39: the subtotal after N terms, by `intCast_sum_eq`. -/
theorem digit9SubtotalsAreTheSeriesResidues : Obligations.Digit9SubtotalsAreTheSeriesResidues := by
  intro index p t u hindex hp hple hsetup
  have hu := setupOk_of_primeSetup hindex hp hple hsetup
  obtain ⟨-, hlow, hhigh⟩ := termCount_bounds hindex
  obtain ⟨-, hsum0, hsum⟩ := seriesState_termLoop hu (k := (termCount index).toNat) (by omega)
  exact ⟨hsum0, hsum, intCast_sum_eq hu hindex (by omega)⟩

end Sys2Proof.Machine
end

section
/-! What DIGIT9 sums (R172, R177, R157): each prime's fraction does not depend on the table before, lies in the
domain of the accumulator, and so the limbs end as the sum of all fractions modulo 1. -/

namespace Sys2Proof.Machine

/-! ### Independence of the table before -/

/-- Two tables agree below a length: whatever is read there is the same, and at no register the same free value. -/
def AgreeBelow (len : Nat) (t t' : Table) : Prop := ∀ j : Int, j < len → entryAt t j = entryAt t' j

/-- The tables of one base agree below their length, whatever was in the registers before (R136). -/
theorem agreeBelow_pptBuild {p : Int} (hp : 2 ≤ p) (t t' : Table) :
    AgreeBelow (pptBuild p t).2 (pptBuild p t).1 (pptBuild p t').1 := by
  intro j hj
  obtain ⟨-, -, -, hentries, -⟩ := isTableOf_pptBuild hp t
  obtain ⟨-, -, -, hentries', -⟩ := isTableOf_pptBuild hp t'
  have hlen : (pptBuild p t').2 = (pptBuild p t).2 := by rw [pptBuild_snd hp, pptBuild_snd hp]
  by_cases h0 : 0 ≤ j
  · obtain ⟨j, rfl⟩ := Int.eq_ofNat_of_zero_le h0
    rw [(hentries j (by omega)).1, (hentries' j (by omega)).1]
  · have hout : ¬ (0 ≤ j ∧ j < 16) := fun h => h0 h.1
    rw [entryAt, entryAt, dif_neg hout, dif_neg hout]

section

variable {len : Nat} {t t' : Table} (hagree : AgreeBelow len t t')
include hagree

theorem extractFrom_congr (n : Int) {top : Nat} (htop : top < len) :
    extractFrom t n top = extractFrom t' n top := by
  induction top with
  | zero => rfl
  | succ top ih =>
    rw [extractFrom, extractFrom, ih (by omega), hagree _ (by exact_mod_cast htop)]

theorem pptExtract_congr (hlen : 1 ≤ len) (n : Int) : pptExtract t len n = pptExtract t' len n :=
  extractFrom_congr hagree n (by omega)

/-- A term step reads the table below its length alone: where a term is added, `E + V` is below `E`. -/
theorem termStep_congr (hlen : 1 ≤ len) {p e : Int} (he : p ≠ 2 → e < len) (m k : Int) (w : TermState) :
    termStep t len p e m k w = termStep t' len p e m k w := by
  have hfactors : termFactors t len m k w = termFactors t' len m k w := by
    simp only [termFactors, pptExtract_congr hagree hlen]
  have hvalue {w : TermState} (hneg : w.v < 0) : termValue t p e m k w = termValue t' p e m k w := by
    have hpower : primePower t p e w.v = primePower t' p e w.v := by
      by_cases h : p = 2
      · rw [primePower, primePower, if_pos h, if_pos h]
      · rw [primePower, primePower, if_neg h, if_neg h]
        have := he h
        exact hagree _ (by omega)
    rw [termValue, termValue, hpower]
  obtain ⟨hnonneg, heq⟩ | ⟨hneg, heq⟩ := termStep_cases t len p e m k w
  · rw [heq, termStep, ← hfactors]
    simp only [if_neg (not_lt.mpr hnonneg)]
  · rw [heq, termStep, ← hfactors]
    simp only [if_pos hneg, hvalue hneg]

theorem termSum_congr (hlen : 1 ≤ len) {p e : Int} (he : p ≠ 2 → e < len) (m v n : Int) :
    termSum t len p e m v n = termSum t' len p e m v n := by
  have hloop (left : Nat) (k : Int) (w : TermState) :
      termLoop t len p e m left k w = termLoop t' len p e m left k w := by
    induction left generalizing k w with
    | zero => rfl
    | succ left ih => rw [termLoop, termLoop, termStep_congr hagree hlen he, ih]
  rw [termSum, termSum, hloop]

end

/-- The setup of a prime does not depend on the table before (R33). -/
theorem primeSetup_congr {index : Int} (hindex : IndexOk index) {p : Nat} (hp : Nat.Prime p) (t t' : Table) :
    primeSetup (pptBuild p t).1 (pptBuild p t).2 p (termCount index) index =
      primeSetup (pptBuild p t').1 (pptBuild p t').2 p (termCount index) index := by
  by_cases h : p = 2
  · subst h
    rw [Nat.cast_ofNat, primeSetup_two hindex t, primeSetup_two hindex t']
  · rw [primeSetup_odd hindex hp h t, primeSetup_odd hindex hp h t']

/-! ### The fraction of a prime -/

/-- A residue over the modulus of a prime is a fraction the accumulator adds exactly (R158). -/
theorem accDomain_modulus {index : Int} {p : Nat} {t : Table} {len : Nat} {u : PrimeSetup}
    (hu : SetupOk index p t len u) {f : Int} (hf : f ∈ Set.Ico 0 u.m) : AccDomain f u.m := by
  obtain ⟨h0, hlt⟩ := hf
  by_cases h : p = 2
  · obtain ⟨-, hmax, -⟩ := hu.two h
    have hpow : u.m = 2 ^ u.e.toNat := by rw [hu.modulus, h]; rfl
    by_cases hsmall : u.e.toNat ≤ 15
    · have hle : (2 : Int) ^ u.e.toNat ≤ 2 ^ 15 := pow_le_pow_right₀ (by decide) hsmall
      exact .inl ⟨by omega, by rw [Config.accThresh]; omega, h0, hlt.le⟩
    · exact .inr ⟨u.e.toNat, by omega, by omega, hpow, h0, hlt⟩
  · obtain ⟨-, -, hmax, -⟩ := hu.odd h
    exact .inl ⟨by omega, by rw [Config.accThresh]; omega, h0, hlt.le⟩

section

variable {index : Int} (hindex : IndexOk index) {p : Nat} (hp : Nat.Prime p)
include hindex hp

/-- A prime that is skipped contributes nothing (R174). -/
theorem primeFraction_of_none {t : Table}
    (hskip : primeSetup (pptBuild p t).1 (pptBuild p t).2 p (termCount index) index = none) :
    primeFraction index p = 0 := by
  rw [primeSetup_congr hindex hp t State.reset.ppt] at hskip
  unfold primeFraction
  simp only [hskip]

/-- A prime that takes part contributes its shifted subtotal over its modulus, from any table before. -/
theorem primeFraction_of_some (hple : (p : Int) ≤ 3 * termCount index) {t : Table} {u : PrimeSetup}
    (hsetup : primeSetup (pptBuild p t).1 (pptBuild p t).2 p (termCount index) index = some u) :
    primeFraction index p =
      mulmod (termSum (pptBuild p t).1 (pptBuild p t).2 p u.e u.m u.v (termCount index)) u.shift u.m *
        10 ^ 18 / u.m := by
  have hu := setupOk_of_primeSetup hindex hp hple hsetup
  have htwo : (2 : Int) ≤ p := by exact_mod_cast hp.two_le
  have hlen : (pptBuild p State.reset.ppt).2 = (pptBuild p t).2 := by
    rw [pptBuild_snd htwo, pptBuild_snd htwo]
  have hlen1 : 1 ≤ (pptBuild p t).2 := by
    rw [pptBuild_snd htwo]
    omega
  have hexp : (p : Int) ≠ 2 → u.e < (pptBuild p t).2 := fun h => by
    obtain ⟨-, hlast, -⟩ := hu.odd (by exact_mod_cast h)
    omega
  have hsum := termSum_congr (agreeBelow_pptBuild htwo t State.reset.ppt) hlen1 hexp u.m u.v (termCount index)
  rw [primeSetup_congr hindex hp t State.reset.ppt] at hsetup
  unfold primeFraction
  simp only [hsetup]
  rw [hlen, ← hsum]

/-- One prime pass adds the prime's fraction, modulo 1 (R172, R177). -/
theorem accVal_passPrime (hple : (p : Int) ≤ 3 * termCount index) {d : DigitState}
    (hlimbs : LimbPair d.hi d.lo) :
    accVal (passPrime (termCount index) index d p).hi (passPrime (termCount index) index d p).lo =
      (accVal d.hi d.lo + primeFraction index p) % 10 ^ 18 := by
  obtain ⟨hskip, heq⟩ | ⟨u, f, hsetup, rfl, heq⟩ := primePass_cases (termCount index) index p d
  · rw [passPrime, heq, primeFraction_of_none hindex hp hskip]
    obtain ⟨hhi0, hhi, hlo0, hlo⟩ := hlimbs
    simp only [accVal, Config.limb] at *
    omega
  · have hu := setupOk_of_primeSetup hindex hp hple hsetup
    obtain ⟨hm, -⟩ := modulus_bounds hu
    rw [passPrime, heq, primeFraction_of_some hindex hp hple hsetup]
    exact accVal_accAdd hlimbs
      (accDomain_modulus hu ⟨mulmod_nonneg (by omega), mulmod_lt (by omega)⟩)

end

/-! ### The sum over the primes -/

/-- The passes of a list of primes add the sum of their fractions, modulo 1. -/
theorem accVal_foldl_passPrime {index : Int} (hindex : IndexOk index) {l : List Nat}
    (hl : ∀ p ∈ l, Nat.Prime p ∧ (p : Int) ≤ 3 * termCount index) {d : DigitState}
    (hlimbs : LimbPair d.hi d.lo) :
    accVal (l.foldl (passPrime (termCount index) index) d).hi
        (l.foldl (passPrime (termCount index) index) d).lo =
      (accVal d.hi d.lo + (l.map fun p : Nat => primeFraction index p).sum) % 10 ^ 18 := by
  induction l generalizing d with
  | nil =>
    obtain ⟨hhi0, hhi, hlo0, hlo⟩ := hlimbs
    simp only [accVal, Config.limb, List.foldl_nil, List.map_nil, List.sum_nil] at *
    omega
  | cons p l ih =>
    obtain ⟨⟨hp, hple⟩, hrest⟩ := List.forall_mem_cons.mp hl
    have hpass : LimbPair (passPrime (termCount index) index d p).hi
        (passPrime (termCount index) index d p).lo := primePass_limbPair hlimbs _ _ _
    rw [List.foldl_cons, ih hrest hpass, accVal_passPrime hindex hp hple hlimbs, List.map_cons,
      List.sum_cons, Int.emod_add_emod, add_assoc]

/-- A sum over the primes up to a bound, as the loop goes through them. -/
theorem sum_primes_eq (b : Nat) (f : Nat → Int) :
    ∑ p ∈ (Finset.range (b + 1)).filter Nat.Prime, f p = ((primesFrom 2 b).map f).sum := by
  have hset : (Finset.range (b + 1)).filter Nat.Prime = (primesFrom 2 b).toFinset := by
    ext p
    rw [Finset.mem_filter, Finset.mem_range, List.mem_toFinset, mem_primesFrom]
    exact ⟨fun h => ⟨h.2, h.2.two_le, by omega⟩, fun h => ⟨by omega, h.1⟩⟩
  rw [hset, List.sum_toFinset f (pairwise_primesFrom 2 b).nodup]

/-! ### The statement -/

/-- Settles O40: the prime loop as a fold, each pass adding its prime's fraction. -/
theorem digit9SumsThePrimeFractions : Obligations.Digit9SumsThePrimeFractions := by
  intro index t hindex
  obtain ⟨b, hb, -⟩ := exists_primeBound hindex
  have hzero : LimbPair (digitStart t).hi (digitStart t).lo := by
    show LimbPair 0 0
    exact ⟨le_refl 0, by decide, le_refl 0, by decide⟩
  have hprimes : ∀ p ∈ primesFrom 2 b, Nat.Prime p ∧ (p : Int) ≤ 3 * termCount index := fun p hmem => by
    obtain ⟨hp, -, hle⟩ := mem_primesFrom.mp hmem
    exact ⟨hp, by omega⟩
  have hvalue : accVal (digitStart t).hi (digitStart t).lo = 0 := by
    show accVal 0 0 = 0
    decide
  rw [digit9_eq_foldl hindex hb, accVal_foldl_passPrime hindex hprimes hzero, hvalue, zero_add, hb,
    ← sum_primes_eq]
  rfl

end Sys2Proof.Machine
end

section
/-! The controller of DIGIT9 (R179): what each transition does, and its run from INIT to IDLE as the prime loop of
`digit9` (R172). -/

namespace Sys2Proof.Machine

/-! ### The transitions -/

/-- All that PRIME_SETUP can do: skip the prime to ADVANCE, or start its terms (R172, R174). -/
theorem seqPrimeSetup_cases (q : Seq) :
    (primeSetup (pptBuild q.p q.digit.table).1 (pptBuild q.p q.digit.table).2 q.p q.n q.index = none ∧
      seqPrimeSetup q =
        { q with
          phase := .advance
          digit := { q.digit with table := (pptBuild q.p q.digit.table).1,
                                  len := (pptBuild q.p q.digit.table).2, skipped := true } }) ∨
    (∃ u, primeSetup (pptBuild q.p q.digit.table).1 (pptBuild q.p q.digit.table).2 q.p q.n q.index = some u ∧
      seqPrimeSetup q =
        { q with
          phase := .term
          k := 1
          setup := u
          work := startTerms u.v
          digit := { q.digit with table := (pptBuild q.p q.digit.table).1,
                                  len := (pptBuild q.p q.digit.table).2 } }) := by
  unfold seqPrimeSetup
  cases hsetup : primeSetup (pptBuild q.p q.digit.table).1 (pptBuild q.p q.digit.table).2 q.p q.n q.index with
  | none => exact .inl ⟨rfl, by simp only [hsetup]⟩
  | some u => exact .inr ⟨u, rfl, by simp only [hsetup]⟩

/-- Only the prime 2 is ever skipped (R174). -/
theorem eq_two_of_primeSetup_eq_none {t : Table} {len : Nat} {p n index : Int}
    (h : primeSetup t len p n index = none) : p = 2 := by
  by_contra hodd
  rw [primeSetup, if_neg hodd] at h
  cases h

/-- TERM with terms left goes on with the next one (R176, R179). -/
theorem seqTerm_of_lt {q : Seq} (h : q.k < q.n) :
    seqTerm q =
      { q with k := q.k + 1,
               work := termStep q.digit.table q.digit.len q.p q.setup.e q.setup.m q.k q.work } :=
  if_pos h

/-- TERM at the last term goes to FOLD (R176, R179). -/
theorem seqTerm_of_not_lt {q : Seq} (h : ¬ q.k < q.n) :
    seqTerm q =
      { q with phase := .fold,
               work := termStep q.digit.table q.digit.len q.p q.setup.e q.setup.m q.k q.work } :=
  if_neg h

/-- ADVANCE to a prime up to 3·N goes to its setup (R172, R179). -/
theorem seqAdvance_of_le {q : Seq} (h : nextPrime q.p ≤ 3 * q.n) :
    seqAdvance q = { q with phase := .primeSetup, p := nextPrime q.p } :=
  if_pos h

/-- ADVANCE to a prime above 3·N goes to FINISH (R172, R179). -/
theorem seqAdvance_of_not_le {q : Seq} (h : ¬ nextPrime q.p ≤ 3 * q.n) :
    seqAdvance q = { q with phase := .finish, p := nextPrime q.p } :=
  if_neg h

section

variable {q : Seq}

theorem seqStep_idle (h : q.phase = .idle) : seqStep q = q := by simp only [seqStep, h]
theorem seqStep_init (h : q.phase = .init) : seqStep q = seqInit q := by simp only [seqStep, h]
theorem seqStep_primeSetup (h : q.phase = .primeSetup) : seqStep q = seqPrimeSetup q := by
  simp only [seqStep, h]
theorem seqStep_term (h : q.phase = .term) : seqStep q = seqTerm q := by simp only [seqStep, h]
theorem seqStep_fold (h : q.phase = .fold) : seqStep q = seqFold q := by simp only [seqStep, h]
theorem seqStep_advance (h : q.phase = .advance) : seqStep q = seqAdvance q := by
  simp only [seqStep, h]
theorem seqStep_finish (h : q.phase = .finish) : seqStep q = { q with phase := .idle } := by
  simp only [seqStep, h]

end

/-- Every transition keeps the index, and from a phase other than IDLE is a row of the table (R179). -/
theorem seqStep_index_phase (q : Seq) :
    (seqStep q).index = q.index ∧ (q.phase ≠ .idle → (q.phase, (seqStep q).phase) ∈ phaseTable) := by
  have hmem {a c : Phase} (hc : (seqStep q).phase = c) (hrow : (a, c) ∈ phaseTable) :
      (a, (seqStep q).phase) ∈ phaseTable := hc ▸ hrow
  cases hphase : q.phase with
  | idle =>
    rw [seqStep_idle hphase]
    exact ⟨rfl, fun hne => absurd rfl hne⟩
  | init =>
    have hstep := seqStep_init hphase
    exact ⟨hstep ▸ rfl, fun _ => hmem (hstep ▸ rfl) (c := .primeSetup) (by decide)⟩
  | primeSetup =>
    have hstep := seqStep_primeSetup hphase
    obtain ⟨-, heq⟩ | ⟨u, -, heq⟩ := seqPrimeSetup_cases q
    · rw [heq] at hstep
      exact ⟨hstep ▸ rfl, fun _ => hmem (hstep ▸ rfl) (c := .advance) (by decide)⟩
    · rw [heq] at hstep
      exact ⟨hstep ▸ rfl, fun _ => hmem (hstep ▸ rfl) (c := .term) (by decide)⟩
  | term =>
    have hstep := seqStep_term hphase
    by_cases hlt : q.k < q.n
    · rw [seqTerm_of_lt hlt] at hstep
      exact ⟨hstep ▸ rfl, fun _ => hmem (hstep ▸ hphase) (c := .term) (by decide)⟩
    · rw [seqTerm_of_not_lt hlt] at hstep
      exact ⟨hstep ▸ rfl, fun _ => hmem (hstep ▸ rfl) (c := .fold) (by decide)⟩
  | fold =>
    have hstep := seqStep_fold hphase
    exact ⟨hstep ▸ rfl, fun _ => hmem (hstep ▸ rfl) (c := .advance) (by decide)⟩
  | advance =>
    have hstep := seqStep_advance hphase
    by_cases hle : nextPrime q.p ≤ 3 * q.n
    · rw [seqAdvance_of_le hle] at hstep
      exact ⟨hstep ▸ rfl, fun _ => hmem (hstep ▸ rfl) (c := .primeSetup) (by decide)⟩
    · rw [seqAdvance_of_not_le hle] at hstep
      exact ⟨hstep ▸ rfl, fun _ => hmem (hstep ▸ rfl) (c := .finish) (by decide)⟩
  | finish =>
    have hstep := seqStep_finish hphase
    exact ⟨hstep ▸ rfl, fun _ => hmem (hstep ▸ rfl) (c := .idle) (by decide)⟩

/-! ### Runs of the controller -/

/-- Some number of transitions leads from one controller state to another. -/
def SeqReaches (q q' : Seq) : Prop := ∃ j, seqRun j q = q'

theorem seqReaches_refl (q : Seq) : SeqReaches q q := ⟨0, rfl⟩

/-- A transition followed by a run is a run. -/
theorem seqReaches_of_step {q q₁ q' : Seq} (hstep : seqStep q = q₁) (hreaches : SeqReaches q₁ q') :
    SeqReaches q q' := by
  subst hstep
  obtain ⟨j, hj⟩ := hreaches
  exact ⟨j + 1, hj⟩

theorem seqReaches_trans {q q₁ q' : Seq} (h : SeqReaches q q₁) (h' : SeqReaches q₁ q') :
    SeqReaches q q' := by
  obtain ⟨j, hj⟩ := h
  induction j generalizing q with
  | zero =>
    obtain rfl : q = q₁ := hj
    exact h'
  | succ j ih => exact seqReaches_of_step rfl (ih hj)

/-- From TERM with `left` terms left after the current one, the run comes to FOLD with all of them done
(R176). -/
theorem seqReaches_fold {q : Seq} (hphase : q.phase = .term) {left : Nat} (hleft : q.k + left = q.n) :
    SeqReaches q
      { q with phase := .fold, k := q.n,
               work := termLoop q.digit.table q.digit.len q.p q.setup.e q.setup.m (left + 1) q.k q.work } := by
  induction left generalizing q with
  | zero =>
    have hk : q.k = q.n := by omega
    refine seqReaches_of_step ((seqStep_term hphase).trans (seqTerm_of_not_lt (by omega))) ?_
    rw [← hk]
    exact seqReaches_refl _
  | succ left ih =>
    refine seqReaches_of_step ((seqStep_term hphase).trans (seqTerm_of_lt (by omega))) ?_
    exact ih hphase (by show q.k + 1 + left = q.n; omega)

/-- From PRIME_SETUP the run comes to ADVANCE with the pass of the current prime done (R172). -/
theorem exists_seqReaches_advance {q : Seq} (hphase : q.phase = .primeSetup) (hn : 1 ≤ q.n) {p : Nat}
    (hp : q.p = p) :
    ∃ q', SeqReaches q q' ∧ q'.phase = .advance ∧ q'.p = q.p ∧ q'.n = q.n ∧ q'.index = q.index ∧
      q'.digit = passPrime q.n q.index q.digit p := by
  have hsetup := seqStep_primeSetup hphase
  rw [passPrime, ← hp]
  obtain ⟨hnone, heq⟩ | ⟨u, hsome, heq⟩ := seqPrimeSetup_cases q
  · obtain ⟨-, hpass⟩ | ⟨u, f, hsome, -, -⟩ := primePass_cases q.n q.index q.p q.digit
    · exact ⟨_, seqReaches_of_step (hsetup.trans heq) (seqReaches_refl _), rfl, rfl, rfl, rfl, hpass.symm⟩
    · rw [hnone] at hsome
      cases hsome
  · obtain ⟨hnone, -⟩ | ⟨u', f, hsome', hf, hpass⟩ := primePass_cases q.n q.index q.p q.digit
    · rw [hsome] at hnone
      cases hnone
    · obtain rfl : u = u' := Option.some.inj (hsome.symm.trans hsome')
      have hterms := seqReaches_fold (q := seqPrimeSetup q) (by rw [heq]) (left := q.n.toNat - 1)
        (by rw [heq]; show 1 + ((q.n.toNat - 1 : Nat) : Int) = q.n; omega)
      rw [heq] at hterms
      refine ⟨_, seqReaches_of_step (hsetup.trans heq) (seqReaches_trans hterms
        (seqReaches_of_step (seqStep_fold rfl) (seqReaches_refl _))), rfl, rfl, rfl, rfl, ?_⟩
      rw [hpass, hf, termSum, show q.n.toNat = q.n.toNat - 1 + 1 by omega]
      rfl

/-- From PRIME_SETUP of a prime up to 3·N the run comes to IDLE with the passes of all primes from there up to
3·N done (R172, R179). -/
theorem exists_seqReaches_idle {q : Seq} (hphase : q.phase = .primeSetup) {b : Nat} (hb : 3 * q.n = b)
    (hlimit : b ≤ 46340) {p : Nat} (hprime : Nat.Prime p) (hp : q.p = p) (hle : p ≤ b) :
    ∃ q', SeqReaches q q' ∧ q'.phase = .idle ∧ q'.n = q.n ∧
      q'.digit = (primesFrom p b).foldl (passPrime q.n q.index) q.digit := by
  induction hfuel : b - p using Nat.strong_induction_on generalizing q p with
  | _ fuel ih =>
    have hpos := hprime.pos
    obtain ⟨q₁, hreach, hphase₁, hp₁, hn₁, hindex₁, hdigit₁⟩ :=
      exists_seqReaches_advance hphase (by omega) hp
    obtain ⟨r, hnext, hr, hpr, -, hleast⟩ := nextPrime_natCast (n := p) (by omega) (by omega)
    have hnext₁ : nextPrime q₁.p = r := by rw [hp₁, hp, hnext]
    have hrest : (primesFrom p b).foldl (passPrime q.n q.index) q.digit =
        (primesFrom r b).foldl (passPrime q.n q.index) q₁.digit := by
      rw [primesFrom_of_le hle, if_pos hprime, List.foldl_cons, hdigit₁,
        primesFrom_eq_of_gap (a := p + 1) hpr fun s hs hps => hleast s hs hps]
    by_cases hrb : r ≤ b
    · have hadvance := (seqStep_advance hphase₁).trans
        (seqAdvance_of_le (by rw [hnext₁, hn₁]; omega))
      obtain ⟨q', hreach', hidle, hn', hdigit'⟩ :=
        ih (b - r) (by omega) (q := { q₁ with phase := .primeSetup, p := nextPrime q₁.p }) rfl
          (by show 3 * q₁.n = b; omega) hr hnext₁ hrb rfl
      refine ⟨q', seqReaches_trans hreach (seqReaches_of_step hadvance hreach'), hidle,
        hn'.trans hn₁, hdigit'.trans ?_⟩
      rw [hrest, ← hn₁, ← hindex₁]
    · have hadvance := (seqStep_advance hphase₁).trans
        (seqAdvance_of_not_le (by rw [hnext₁, hn₁]; omega))
      refine ⟨_, seqReaches_trans hreach (seqReaches_of_step hadvance
        (seqReaches_of_step (seqStep_finish rfl) (seqReaches_refl _))), rfl, hn₁, ?_⟩
      rw [hrest, primesFrom_of_lt (by omega)]
      rfl

/-! ### The statements -/

/-- Settles O41: INIT, then the run over the primes; the first pass overwrites the length the controller came
with. -/
theorem sequencerComputesDigit9 : Obligations.SequencerComputesDigit9 := by
  intro q hphase hindex
  obtain ⟨b, hb, hlow, hlimit⟩ := exists_primeBound hindex
  obtain ⟨q', hreach, hidle, hn, hdigit⟩ :=
    exists_seqReaches_idle (q := seqInit q) rfl hb hlimit Nat.prime_two rfl (by omega)
  obtain ⟨j, rfl⟩ := seqReaches_of_step (seqStep_init hphase) hreach
  have hfirst : passPrime (termCount q.index) q.index (seqInit q).digit 2 =
      passPrime (termCount q.index) q.index (digitStart q.digit.table) 2 := by
    simp only [passPrime, primePass, seqInit, digitStart]
  refine ⟨j, hidle, ?_, hn⟩
  rw [hdigit, digit9_eq_foldl hindex hb, primesFrom_two (by omega), List.foldl_cons, List.foldl_cons,
    ← hfirst]
  rfl

/-- Settles O42: the transition of each phase, with the two ends of PRIME_SETUP, TERM and ADVANCE. -/
theorem sequencerFollowsTheTransitionTable : Obligations.SequencerFollowsTheTransitionTable := by
  refine ⟨fun index t => ⟨rfl, rfl, rfl⟩, fun q => ?_⟩
  obtain ⟨hindex, hrow⟩ := seqStep_index_phase q
  refine ⟨hindex, hrow, seqStep_idle, fun hphase => ?init, fun hphase => ?setup, fun hphase => ?term,
    fun hphase => ?fold, fun hphase => ?advance, fun hphase => ?finish⟩
  case init =>
    rw [seqStep_init hphase]
    exact ⟨rfl, rfl, rfl, rfl, rfl, rfl⟩
  case setup =>
    rw [seqStep_primeSetup hphase]
    obtain ⟨hnone, heq⟩ | ⟨u, hsome, heq⟩ := seqPrimeSetup_cases q
    · rw [heq]
      exact ⟨iff_of_true rfl hnone, fun _ => ⟨eq_two_of_primeSetup_eq_none hnone, rfl⟩,
        fun hne => absurd rfl hne⟩
    · rw [heq, hsome]
      exact ⟨iff_of_false nofun nofun, nofun, fun _ => ⟨rfl, rfl⟩⟩
  case term =>
    rw [seqStep_term hphase]
    by_cases hlt : q.k < q.n
    · rw [seqTerm_of_lt hlt]
      exact ⟨iff_of_true hphase hlt, fun _ => rfl, fun hnot => absurd hlt hnot⟩
    · rw [seqTerm_of_not_lt hlt]
      exact ⟨iff_of_false nofun hlt, fun h => absurd h hlt, fun _ => rfl⟩
  case fold =>
    rw [seqStep_fold hphase]
    rfl
  case advance =>
    rw [seqStep_advance hphase]
    by_cases hle : nextPrime q.p ≤ 3 * q.n
    · rw [seqAdvance_of_le hle]
      exact ⟨rfl, iff_of_true rfl hle, fun hnot => absurd hle hnot⟩
    · rw [seqAdvance_of_not_le hle]
      exact ⟨rfl, iff_of_false nofun hle, fun _ => rfl⟩
  case finish => rw [seqStep_finish hphase]

end Sys2Proof.Machine
end
